-- ==== Sys2Proof/Word.lean ====
section
/-!
DEFINITION. The word types of the block (spec/00_scope.md R6): a byte, the two wider unsigned integers, and a byte string.
-/

namespace Sys2Proof

/-- `u8` of R6. -/
abbrev Byte := BitVec 8

/-- `u16` of R6: a member of a VCO range. -/
abbrev Half := BitVec 16

/-- `u32` of R6: a register image, and every integer operand of a register-codec operation. -/
abbrev Word := BitVec 32

/-- `i32` of R6, in two's complement: only the RF level uses it. -/
abbrev SWord := BitVec 32

/-- `Bytes` of R6: a finite byte string, index 0 first. -/
abbrev Bytes := List Byte

end Sys2Proof
end

