-- ==== Sys2Proof/Syntax.lean ====
section
/-!
DEFINITION. The requests of the host as syntax: the operand records of spec/10_state.md R34, the 60 instructions of
spec/opcode_table.json (49 block operations of R75, 11 wire commands of R66), and the sixteen controller functions of R77.
-/

namespace Sys2Proof

/-- `SynthesizerID` (R6, R65): channel A or channel B. Its numeric value is `idval`. -/
inductive ChannelId where
  | a | b
deriving DecidableEq, Repr, Inhabited

/-- The eleven command mnemonics of R66, the first operand of MKADDR (R170). -/
inductive Command where
  | getRegs | setRegs | getLabel | setLabel | getVco | setVco
  | getRef | setRef | getStatus | setRefsel | flash
deriving DecidableEq, Repr

/-- `RegBlock` (R6): six 32-bit register images, `r0` is the spec's `x[0]`. -/
structure RegBlock where
  r0 : Word
  r1 : Word
  r2 : Word
  r3 : Word
  r4 : Word
  r5 : Word
deriving DecidableEq, Repr, Inhabited

/-- `VcoRange` (R30, R34), in MHz. -/
structure VcoRange where
  low : Half
  high : Half
deriving DecidableEq, Repr, Inhabited

/-- `FrequencySetting` (R34). The stated ranges are checked by SETFS (R211), not by the type. -/
structure FrequencySetting where
  ncount : Word
  frac : Word
  mod : Word
  dbf : Word
deriving DecidableEq, Repr

/-- `Options` (R34). -/
structure Options where
  doubleRef : Bool
  halfRef : Bool
  r : Word
  lowSpur : Bool
deriving DecidableEq, Repr

/-- `UnpackedR0` (R34, R132): the fields of Register0 (R23) and its unmapped bits in place. -/
structure UnpackedR0 where
  control : Word
  frac : Word
  ncount : Word
  rsvd : Word
deriving DecidableEq, Repr

/-- `UnpackedR1` (R34, R133), fields of R24. -/
structure UnpackedR1 where
  control : Word
  mod : Word
  phase : Word
  prescaler : Word
  rsvd : Word
deriving DecidableEq, Repr

/-- `UnpackedR2` (R34, R134), fields of R25. -/
structure UnpackedR2 where
  control : Word
  counterReset : Word
  cpThreeState : Word
  pd : Word
  pdPolarity : Word
  ldp : Word
  ldf : Word
  chargePump : Word
  doubleBuffer : Word
  r : Word
  halfR : Word
  doubleR : Word
  muxout : Word
  lowSpur : Word
  rsvd : Word
deriving DecidableEq, Repr

/-- `UnpackedR3` (R34, R135), fields of R26. -/
structure UnpackedR3 where
  control : Word
  clockDiv : Word
  clockDivMode : Word
  csr : Word
  rsvd : Word
deriving DecidableEq, Repr

/-- `UnpackedR4` (R34, R136), fields of R27. -/
structure UnpackedR4 where
  control : Word
  outputPower : Word
  rfOutputEnable : Word
  auxOutputPower : Word
  auxOutputEnable : Word
  auxOutputSelect : Word
  mtld : Word
  vcoPowerDown : Word
  bandSelectClockDiv : Word
  dividerSelect : Word
  feedbackSelect : Word
  rsvd : Word
deriving DecidableEq, Repr

/-- `UnpackedR5` (R34, R137), fields of R28. -/
structure UnpackedR5 where
  control : Word
  ldPinMode : Word
  rsvd : Word
deriving DecidableEq, Repr

/-- The instructions: one constructor per row of spec/opcode_table.json, in the table's order, with the operands
of R75 (block operations) and of R174 to R184 (wire commands). -/
inductive Instr where
  | cksum (b : Bytes)
  | ckverify (b : Bytes) (expected : Byte)
  | framew (address : Byte) (payload : Bytes)
  | framer (address : Byte)
  | ackchk (rx : Bytes)
  | respchk (rx : Bytes) (expectedLen : Nat)
  | mkaddr (cmd : Command) (id : Option ChannelId)
  | xwrite (address : Byte) (payload : Bytes)
  | xread (address : Byte) (expectedLen : Nat)
  | packu32 (v : Word)
  | unpacku32 (b : Bytes)
  | packu16 (v : Half)
  | unpacku16 (b : Bytes)
  | packbool (v : Bool)
  | labelfit (l : Bytes)
  | packvco (low high : Half)
  | unpackvco (b : Bytes)
  | stphase (id : ChannelId) (status : Byte)
  | strefsel (status : Byte)
  | unpackr0 (w : Word)
  | unpackr1 (w : Word)
  | unpackr2 (w : Word)
  | unpackr3 (w : Word)
  | unpackr4 (w : Word)
  | unpackr5 (w : Word)
  | fget (w : Word) (off width : Nat)
  | fset (w : Word) (off width : Nat) (v : Word)
  | packr0 (u : UnpackedR0)
  | packr1 (u : UnpackedR1)
  | packr2 (u : UnpackedR2)
  | packr3 (u : UnpackedR3)
  | packr4 (u : UnpackedR4)
  | packr5 (u : UnpackedR5)
  | unpackblk (b : Bytes)
  | packblk (x : RegBlock)
  | dbfenc (dbf : Word)
  | dbfdec (code : Word)
  | rflenc (level : SWord)
  | rfldec (code : Word)
  | lspenc (v : Bool)
  | lspdec (raw : Word)
  | getfs (x : RegBlock)
  | setfs (x : RegBlock) (fs : FrequencySetting)
  | getopt (x : RegBlock)
  | setopt (x : RegBlock) (o : Options)
  | getrfl (x : RegBlock)
  | setrfl (x : RegBlock) (level : SWord)
  | gcd (a b : Word)
  | reduce (frac mod : Word)
  | getRegs (id : ChannelId)
  | setRegs (id : ChannelId) (x : RegBlock)
  | getLabel (id : ChannelId)
  | setLabel (id : ChannelId) (l : Bytes)
  | getVco (id : ChannelId)
  | setVco (id : ChannelId) (low high : Half)
  | getRef
  | setRef (hz : Word)
  | getStatus (id : ChannelId)
  | setRefsel (v : Bool)
  | flash
deriving DecidableEq, Repr

/-- The sixteen controller functions of R77, each a pseudo-instruction that expands into instructions
(R216 to R229, R231, R232). A frequency and a spacing are exact rationals (R239, decision D23: exact reals;
every finite `f32` is a rational). `spacing := none` is the default argument 10.0 of R232. -/
inductive Call where
  | getFrequency (id : ChannelId)
  | setFrequency (id : ChannelId) (freq : Rat) (spacing : Option Rat)
  | getReference
  | setReference (hz : Word)
  | getRfLevel (id : ChannelId)
  | setRfLevel (id : ChannelId) (level : SWord)
  | getOptions (id : ChannelId)
  | setOptions (id : ChannelId) (o : Options)
  | getRefSelect
  | setRefSelect (v : Bool)
  | getVcoRange (id : ChannelId)
  | setVcoRange (id : ChannelId) (v : VcoRange)
  | getPhaseLock (id : ChannelId)
  | getLabel (id : ChannelId)
  | setLabel (id : ChannelId) (label : Bytes)
  | flash
deriving DecidableEq, Repr

/-- The two encoding spaces of spec/30_encoding.md: "an op select value and an address byte are never compared". -/
inductive Space where
  | op | command
deriving DecidableEq, Repr

/-- The space an instruction's row stands in: format `OP`, or formats `CMD_CH` and `CMD_SH`. -/
def Instr.space : Instr → Space
  | .getRegs _ | .setRegs _ _ | .getLabel _ | .setLabel _ _ | .getVco _ | .setVco _ _ _
  | .getRef | .setRef _ | .getStatus _ | .setRefsel _ | .flash => .command
  | .cksum _ | .ckverify _ _ | .framew _ _ | .framer _ | .ackchk _ | .respchk _ _ | .mkaddr _ _
  | .xwrite _ _ | .xread _ _ | .packu32 _ | .unpacku32 _ | .packu16 _ | .unpacku16 _ | .packbool _
  | .labelfit _ | .packvco _ _ | .unpackvco _ | .stphase _ _ | .strefsel _ | .unpackr0 _ | .unpackr1 _
  | .unpackr2 _ | .unpackr3 _ | .unpackr4 _ | .unpackr5 _ | .fget _ _ _ | .fset _ _ _ _ | .packr0 _
  | .packr1 _ | .packr2 _ | .packr3 _ | .packr4 _ | .packr5 _ | .unpackblk _ | .packblk _ | .dbfenc _
  | .dbfdec _ | .rflenc _ | .rfldec _ | .lspenc _ | .lspdec _ | .getfs _ | .setfs _ _ | .getopt _
  | .setopt _ _ | .getrfl _ | .setrfl _ _ | .gcd _ _ | .reduce _ _ => .op

end Sys2Proof
end

