-- ==== Sys2Proof/Machine/State.lean ====
section
/-!
DEFINITION. The state: the device's items (spec/10_state.md R21 to R33), the transport's answers (R173), the host's requests and
what came back to it (R8, R280), and the open parameter ROUND_HALF_UP (R238). The block itself holds nothing (R20).
-/

namespace Sys2Proof.Machine

/-! ## Responses (spec/60_exceptions.md) -/

/-- The two calls of the transport oracle (R173). -/
inductive TransportCall where
  | txWrite | rxRead
deriving DecidableEq, Repr

/-- The fields of the six register layouts (R23 to R28), by name. -/
inductive FieldName where
  | control | frac | ncount | mod | phase | prescaler
  | counterReset | cpThreeState | pd | pdPolarity | ldp | ldf | chargePump | doubleBuffer | r | halfR | doubleR
  | muxout | lowSpur | clockDiv | clockDivMode | csr
  | outputPower | rfOutputEnable | auxOutputPower | auxOutputEnable | auxOutputSelect | mtld | vcoPowerDown
  | bandSelectClockDiv | dividerSelect | feedbackSelect | ldPinMode
deriving DecidableEq, Repr

/-- Which operand an InvalidArgument names: the causes of the table in R254. -/
inductive BadArgument where
  /-- An RF level outside the four. -/
  | rfLevel
  /-- An output divider outside {1,2,4,8,16}. -/
  | dbf
  /-- A field value that does not fit its width. -/
  | field (name : FieldName)
  /-- The value operand of FSET does not fit the field. -/
  | fieldValue
  /-- `rsvd` has a mapped bit set. -/
  | rsvd
  /-- A field outside the 32-bit word. -/
  | fieldRange
  /-- A byte string, or a command payload, of the wrong length or form. -/
  | length
  /-- ACKCHK or RESPCHK given more bytes than were requested. -/
  | rxTooLong
  /-- A code that cannot come from its field. -/
  | code
  /-- A per-channel command without a channel id. -/
  | missingId
  /-- An op select that names no operation. -/
  | opSelect
  /-- `epdf = 0` in `setFrequency`. -/
  | epdfZero
  /-- A negative `vco` in `setFrequency`. -/
  | vcoNegative
  /-- A spacing that is not positive. -/
  | spacing
  /-- `mod = 0` read back in `getFrequency`. -/
  | modZero
deriving DecidableEq, Repr

/-- The five error statuses of R250, with the information the table records with each (log entry 16). -/
inductive Error where
  /-- R251: a call of the transport fell short. -/
  | transport (call : TransportCall) (wanted got : Nat)
  /-- R252: the computed and the received checksum; never the payload. -/
  | checksum (computed received : Byte)
  /-- R253: the byte received in place of ACK. -/
  | protocol (received : Byte)
  /-- R254. -/
  | invalidArgument (which : BadArgument)
  /-- R255: a field code without a meaning. -/
  | reservedCode (name : FieldName) (raw : Word)
deriving DecidableEq, Repr

/-- The results of the operations (R75), the wire commands (R174 to R184) and the controller functions (R77). -/
inductive Value where
  | none
  | bool (v : Bool)
  | byte (v : Byte)
  | half (v : Half)
  | word (v : Word)
  | level (v : SWord)
  | bytes (v : Bytes)
  | vco (v : VcoRange)
  | block (v : RegBlock)
  | unpackedR0 (v : UnpackedR0)
  | unpackedR1 (v : UnpackedR1)
  | unpackedR2 (v : UnpackedR2)
  | unpackedR3 (v : UnpackedR3)
  | unpackedR4 (v : UnpackedR4)
  | unpackedR5 (v : UnpackedR5)
  | setting (v : FrequencySetting)
  | options (v : Options)
  | fraction (frac mod : Word)
  | frequency (v : Rat)
deriving DecidableEq, Repr

/-- A response (R8): status OK with the results, or an error and no result at all. -/
inductive Response where
  | ok (v : Value)
  | error (e : Error)
deriving DecidableEq, Repr

/-! ## The device (spec/10_state.md section 2) -/

/-- What the device holds for one channel: registers (R21), label (R29), VCO range (R30). -/
structure Bank where
  regs : RegBlock
  label : Vector Byte 16
  vco : VcoRange
deriving DecidableEq, Repr, Inhabited

/-- R33: the settings of both channels that FLASH committed (log entry 7). No command reads them back. -/
structure Nvram where
  bankA : Bank
  bankB : Bank
deriving DecidableEq, Repr, Inhabited

/-- Every item of the device, each read and written whole: there is no byte-addressed memory (log entry 14). -/
structure Device where
  bankA : Bank
  bankB : Bank
  /-- R31: the reference frequency in Hz, shared by the channels. -/
  reference : Word
  /-- R32: the shared status byte. -/
  status : Byte
  nvram : Nvram
deriving DecidableEq, Repr, Inhabited

/-! ## The environment's draws (spec/43_command_protocol.md R173, R187) -/

/-- What RxRead finds to return. -/
inductive Answer where
  /-- Any bytes at all: the unconstrained draw of R187. -/
  | bytes (b : Bytes)
  /-- The reply an attached device would give from its items: the named assumption R187 allows a model to make. -/
  | faithful
deriving DecidableEq, Repr, Inhabited

/-- The environment's part in one exchange. -/
structure Draw where
  /-- How many bytes TxWrite accepts (R173); `none`: the whole frame. A count above the frame's length is cut to it. -/
  accepted : Option Nat
  /-- What RxRead finds; it returns at most the bytes asked for. -/
  answer : Answer
  /-- Whether a write whose acknowledgement never came took effect (R53, U9; log entry 18 for a frame that writes no item). -/
  applied : Bool
  /-- What the device holds after an acknowledged write (N13), on a read before it answers (N11, R46), or after an unacknowledged
  frame that writes no item and took effect (N30, log entry 18); `none`: the written item, or no change. -/
  drift : Option Device
deriving DecidableEq, Repr, Inhabited

/-! ## The host -/

/-- What the host presents next: the encoded request of an instruction, or a controller function (R77). -/
inductive Request where
  | encoded (space : Space) (bytes : Bytes)
  | call (c : Call)
deriving DecidableEq, Repr

/-- The whole machine. -/
structure State where
  /-- The host's requests not yet presented, oldest first (R4, R8). -/
  requests : List Request
  /-- The responses the host has received, oldest first (R280, log entry 17). -/
  responses : List Response
  /-- The byte strings given to TxWrite, oldest first (R188, log entry 17). -/
  sent : List Bytes
  /-- What the transport has in store for the next exchanges, first to come first (R173). -/
  link : List Draw
  /-- The model's own: how many free draws were taken (log entry 4). -/
  draws : Nat
  /-- The device's items (R21 to R33). -/
  device : Device
  /-- ROUND_HALF_UP (R238, log entry 8). -/
  roundHalfUp : Bool
deriving DecidableEq, Repr

/-- No behaviour of the spec stops the machine ("No behaviour is given the treatment *stuck*", 93_implementation_defined.md):
every error is a response. So nobody raises a fault, and the type is empty. -/
inductive Fault where
deriving DecidableEq, Repr

/-- The requests the model gives no meaning. -/
inductive Refusal where
  /-- Raised by `exec` for an instruction that has no meaning yet. Safe. -/
  | notModelled (mnemonic : String)
  /-- Raised by `step` for a command request whose address byte is none of the eighteen of R66: "cannot be formed" (R73).
  Safe. -/
  | unlistedAddress (address : Byte)
  /-- Raised by `step` for bytes that are no request: none at all, a first byte that is no 6-bit op select, or operand bytes
  that are not the operation's operands (log entry 2). Safe. -/
  | malformedRequest (bytes : Bytes)
deriving DecidableEq, Repr

/-- A register block of zeros. -/
def zeroBlock : RegBlock := ⟨0, 0, 0, 0, 0, 0⟩

/-- A channel with every item at the value log entry 1 names. -/
def resetBank : Bank := ⟨zeroBlock, Vector.replicate 16 0, ⟨0, 0⟩⟩

/-- The device at the values log entry 1 names: the spec leaves every one of them unspecified (R36, R271). DESIGN CHOICE,
unsafe. -/
def resetDevice : Device := ⟨resetBank, resetBank, 0, 0, ⟨resetBank, resetBank⟩⟩

/-- R270: after reset the block is ready, nothing was sent and nothing has come back, and the host has asked for nothing. -/
def State.reset : State :=
  { requests := [], responses := [], sent := [], link := [], draws := 0, device := resetDevice, roundHalfUp := true }

end Sys2Proof.Machine
end

