-- ==== Sys2Proof/Config.lean ====
section
/-!
DEFINITION. What is fixed for a run and what is left free (spec/00_scope.md R10).
-/

namespace Sys2Proof

open Sys2Proof.Machine

/-- R187, D31: an exchange for which `State.link` holds no answer takes a free draw, the `k`-th of the run. It has no body:
nothing can be proved of it (log entry 4). -/
opaque Config.freeDraw : Nat → Draw

/-- READ_TIMEOUT of R10 and R262, in any unit: an open parameter that no rule reads (log entry 9). -/
opaque Config.readTimeout : Nat

/-- DEFAULT_CHANNEL_SPACING of R10: "10.0 (in the unit VS calls MHz)". -/
def Config.defaultSpacing : Rat := 10

/-- ACK of R10 and R61. -/
def Config.ack : Byte := 0x06

/-- NACK of R10 and R61. No rule compares a byte with it: it is one of the 255 that are not ACK (R95). -/
def Config.nack : Byte := 0x15

end Sys2Proof
end

