-- ==== Sys2Proof/Machine/Ops.lean ====
section
/-!
DEFINITION. The operations every meaning is written over: giving a response, raising an error, and running the steps of a request
one after another (spec/00_scope.md R8, R9; spec/60_exceptions.md R258).
-/

namespace Sys2Proof.Machine

/-- A step of a request that may use the transport: its result or the error it raised, and the state it leaves. -/
abbrev Action (α : Type) := State → Except Error α × State

/-- R8: the host receives a response. This is the only thing that happens to the state when a request ends. -/
def State.respond (s : State) (r : Response) : State := { s with responses := s.responses ++ [r] }

/-- R258: an operation that completes returns its results; one that raises an error returns the error and no result. -/
def responseOf : Except Error Value → Response
  | .ok v => .ok v
  | .error e => .error e

/-- The end of a request: its response goes to the host. -/
def answer (p : Except Error Value × State) : Host.Outcome State Fault Refusal :=
  .next (p.2.respond (responseOf p.1))

/-- A request that is a function of its operands alone (R20): no transport, no change but the response. -/
def give (r : Except Error Value) (s : State) : Host.Outcome State Fault Refusal := answer (r, s)

/-- `raise InvalidArgument(which)` of R9 and R254. -/
def badArgument {α : Type} (which : BadArgument) : Except Error α := .error (.invalidArgument which)

/-- A step that uses no transport. -/
def pureStep {α : Type} (r : Except Error α) : Action α := fun s => (r, s)

/-- Two steps in order: an error in the first ends the request, and the second is not run (R257, R258). -/
def andThen {α β : Type} (m : Action α) (f : α → Action β) : Action β := fun s =>
  match m s with
  | (.ok a, s') => f a s'
  | (.error e, s') => (.error e, s')

/-- An action whose result is turned into a value of a response. -/
def asValue {α : Type} (f : α → Value) (m : Action α) : Action Value :=
  andThen m fun a => pureStep (.ok (f a))

end Sys2Proof.Machine
end

