-- ==== Sys2Proof/Machine/Operands.lean ====
section
/-!
DEFINITION. Operand forms and byte order: the big-endian integers of R41, the command addresses of R64 to R66, and the layout
a request gives each kind of operand. R67 fixes the payloads of the wire commands; for the block operations the spec encodes
the op select only, and their operand layout is the model's own (log entry 2).
-/

namespace Sys2Proof.Machine

/-! ## Big-endian integers (R41) -/

/-- R110: the four bytes of a `u32`, most significant first. -/
def packU32 (v : Word) : Bytes :=
  [v.extractLsb' 24 8, v.extractLsb' 16 8, v.extractLsb' 8 8, v.extractLsb' 0 8]

/-- R111: `byte 0 * 2^24 + byte 1 * 2^16 + byte 2 * 2^8 + byte 3`. -/
def joinU32 (b0 b1 b2 b3 : Byte) : Word :=
  BitVec.ofNat 32 (b0.toNat * 2 ^ 24 + b1.toNat * 2 ^ 16 + b2.toNat * 2 ^ 8 + b3.toNat)

/-- R112: the two bytes of a `u16`, most significant first. -/
def packU16 (v : Half) : Bytes := [v.extractLsb' 8 8, v.extractLsb' 0 8]

/-- R113: `byte 0 * 2^8 + byte 1`. -/
def joinU16 (b0 b1 : Byte) : Half := BitVec.ofNat 16 (b0.toNat * 2 ^ 8 + b1.toNat)

/-! ## Channel ids and command addresses (R64 to R66) -/

/-- R65: `idval(A) = 0x00`, `idval(B) = 0x08`. -/
def idval : ChannelId → Byte
  | .a => 0x00
  | .b => 0x08

/-- R170: the base address of a command. -/
def baseAddress : Command → Byte
  | .getRegs => 0x80
  | .setRegs => 0x00
  | .getLabel => 0x82
  | .setLabel => 0x02
  | .getVco => 0x83
  | .setVco => 0x03
  | .getRef => 0x81
  | .setRef => 0x01
  | .getStatus => 0x86
  | .setRefsel => 0x06
  | .flash => 0x40

/-- R170: the seven commands that need a channel id; the other four are shared. -/
def perChannel : Command → Bool
  | .getRegs | .setRegs | .getLabel | .setLabel | .getVco | .setVco | .getStatus => true
  | .getRef | .setRef | .setRefsel | .flash => false

/-- R44: payload bytes of each command. -/
def payloadLen : Command → Nat
  | .getRegs | .setRegs => 24
  | .getLabel | .setLabel => 16
  | .getVco | .setVco | .getRef | .setRef => 4
  | .getStatus | .setRefsel => 1
  | .flash => 0

/-- R65: the address byte of a command for a channel; a shared command ignores the channel. -/
def addressOf (c : Command) (id : ChannelId) : Byte :=
  if perChannel c then baseAddress c ||| idval id else baseAddress c

/-- The command table of R66 read backwards: the eighteen listed address bytes, and no other. -/
def commandAt (a : Byte) : Option (Command × ChannelId) :=
  match a.toNat with
  | 0x80 => some (.getRegs, .a)
  | 0x88 => some (.getRegs, .b)
  | 0x00 => some (.setRegs, .a)
  | 0x08 => some (.setRegs, .b)
  | 0x82 => some (.getLabel, .a)
  | 0x8A => some (.getLabel, .b)
  | 0x02 => some (.setLabel, .a)
  | 0x0A => some (.setLabel, .b)
  | 0x83 => some (.getVco, .a)
  | 0x8B => some (.getVco, .b)
  | 0x03 => some (.setVco, .a)
  | 0x0B => some (.setVco, .b)
  | 0x81 => some (.getRef, .a)
  | 0x01 => some (.setRef, .a)
  | 0x86 => some (.getStatus, .a)
  | 0x8E => some (.getStatus, .b)
  | 0x06 => some (.setRefsel, .a)
  | 0x40 => some (.flash, .a)
  | _ => none

/-! ## Writing an operand into a request -/

/-- A `nat` operand: 32 bits, big-endian (log entry 2). -/
def putNat (n : Nat) : Bytes := packU32 (BitVec.ofNat 32 n)

/-- A byte-string operand: its length as a `nat`, then its bytes (log entry 2). -/
def putBytes (b : Bytes) : Bytes := putNat b.length ++ b

/-- A boolean operand: the bytes of PACKBOOL (R114). -/
def putBool (v : Bool) : Bytes := if v then [0x01] else [0x00]

/-- A channel id: its numeric value (R6). -/
def putId (id : ChannelId) : Bytes := [idval id]

/-- MKADDR's optional channel id: 0xFF says that none is given (log entry 2). -/
def putOptId : Option ChannelId → Bytes
  | some id => [idval id]
  | none => [0xFF]

/-- MKADDR's command operand: the command's base address (log entry 2). -/
def putCommand (c : Command) : Bytes := [baseAddress c]

/-- R145, R42: six images in ascending order. -/
def putRegBlock (x : RegBlock) : Bytes :=
  packU32 x.r0 ++ (packU32 x.r1 ++ (packU32 x.r2 ++ (packU32 x.r3 ++ (packU32 x.r4 ++ packU32 x.r5))))

/-- Several `u32` operands one after another, as a record's members are laid out (log entry 2). -/
def putWords : List Word → Bytes
  | [] => []
  | w :: ws => packU32 w ++ putWords ws

/-! ## Reading an operand from a request: the value and the bytes after it -/

/-- Go on with the operand that was read and the bytes after it. -/
def takeThen {α β : Type} (x : Option (α × Bytes)) (f : α → Bytes → Option β) : Option β :=
  match x with
  | some (a, t) => f a t
  | none => none

/-- One byte. -/
def takeU8 : Bytes → Option (Byte × Bytes)
  | b :: t => some (b, t)
  | [] => none

/-- A big-endian `u16`. -/
def takeU16 : Bytes → Option (Half × Bytes)
  | b0 :: b1 :: t => some (joinU16 b0 b1, t)
  | _ => none

/-- A big-endian `u32`. -/
def takeU32 : Bytes → Option (Word × Bytes)
  | b0 :: b1 :: b2 :: b3 :: t => some (joinU32 b0 b1 b2 b3, t)
  | _ => none

/-- A `nat` operand. -/
def takeNat (t : Bytes) : Option (Nat × Bytes) := takeThen (takeU32 t) fun v t => some (v.toNat, t)

/-- Exactly `n` bytes. -/
def takeExact (n : Nat) (t : Bytes) : Option (Bytes × Bytes) :=
  if n ≤ t.length then some (t.take n, t.drop n) else none

/-- A byte-string operand. -/
def takeBytes (t : Bytes) : Option (Bytes × Bytes) := takeThen (takeNat t) fun n t => takeExact n t

/-- A boolean operand: 0x00 or 0x01, nothing else. -/
def takeBool : Bytes → Option (Bool × Bytes)
  | b :: t => if b = 0x00 then some (false, t) else if b = 0x01 then some (true, t) else none
  | [] => none

/-- A channel id: 0x00 or 0x08, nothing else. -/
def takeId : Bytes → Option (ChannelId × Bytes)
  | b :: t => if b = 0x00 then some (.a, t) else if b = 0x08 then some (.b, t) else none
  | [] => none

/-- MKADDR's optional channel id. -/
def takeOptId : Bytes → Option (Option ChannelId × Bytes)
  | b :: t =>
    if b = 0x00 then some (some .a, t) else if b = 0x08 then some (some .b, t)
    else if b = 0xFF then some (none, t) else none
  | [] => none

/-- MKADDR's command operand: one of the eleven base addresses, nothing else. -/
def takeCommand : Bytes → Option (Command × Bytes)
  | b :: t =>
    match b.toNat with
    | 0x80 => some (.getRegs, t)
    | 0x00 => some (.setRegs, t)
    | 0x82 => some (.getLabel, t)
    | 0x02 => some (.setLabel, t)
    | 0x83 => some (.getVco, t)
    | 0x03 => some (.setVco, t)
    | 0x81 => some (.getRef, t)
    | 0x01 => some (.setRef, t)
    | 0x86 => some (.getStatus, t)
    | 0x06 => some (.setRefsel, t)
    | 0x40 => some (.flash, t)
    | _ => none
  | [] => none

/-- A register block: six big-endian `u32`. -/
def takeRegBlock (t : Bytes) : Option (RegBlock × Bytes) :=
  takeThen (takeU32 t) fun r0 t => takeThen (takeU32 t) fun r1 t => takeThen (takeU32 t) fun r2 t =>
  takeThen (takeU32 t) fun r3 t => takeThen (takeU32 t) fun r4 t => takeThen (takeU32 t) fun r5 t =>
  some (⟨r0, r1, r2, r3, r4, r5⟩, t)

end Sys2Proof.Machine
end

