-- ==== Sys2Proof/Machine/Registers.lean ====
section
/-!
DEFINITION. The register codec's fields (spec/42_register_codec.md sections 1 to 4, layouts of spec/10_state.md R23 to R28): FGET,
FSET, UNPACKR0 to UNPACKR5, PACKR0 to PACKR5, UNPACKBLK, PACKBLK.
-/

namespace Sys2Proof.Machine

/-! ## Bit fields (R7) -/

/-- `w[off+width-1 : off]`, that is `floor(w / 2^off) mod 2^width` (R7, R130). -/
def bitsOf (w : Word) (off width : Nat) : Word := BitVec.ofNat 32 (w.toNat / 2 ^ off % 2 ^ width)

/-- `(2^width - 1) << off` (R131). -/
def fieldMask (off width : Nat) : Word := BitVec.ofNat 32 ((2 ^ width - 1) * 2 ^ off)

/-- `(w & ~mask) | (v << off)` (R131). -/
def putField (w : Word) (off width : Nat) (v : Word) : Word := (w &&& ~~~fieldMask off width) ||| (v <<< off)

/-- R130: a field that leaves the word is refused. -/
def getField (w : Word) (off width : Nat) : Except Error Word :=
  if width < 1 ∨ off + width > 32 then badArgument .fieldRange else .ok (bitsOf w off width)

/-- R131: a field that leaves the word, and a value that does not fit the field, are refused. -/
def setField (w : Word) (off width : Nat) (v : Word) : Except Error Word :=
  if width < 1 ∨ off + width > 32 then badArgument .fieldRange
  else if 2 ^ width ≤ v.toNat then badArgument .fieldValue
  else .ok (putField w off width v)

/-! ## The mapped bits of each register (R23 to R28) -/

/-- R23. -/
def mappedR0 : Word := 0x7FFFFFFF
/-- R24. -/
def mappedR1 : Word := 0x0FFFFFFF
/-- R25. -/
def mappedR2 : Word := 0x7FFFFFFF
/-- R26. -/
def mappedR3 : Word := 0x0005FFFF
/-- R27. -/
def mappedR4 : Word := 0x00FFFFFF
/-- R28. -/
def mappedR5 : Word := 0x00C00007

/-! ## Unpacking: one member per field, and the unmapped bits in place -/

/-- R132. -/
def unpackR0 (w : Word) : UnpackedR0 :=
  { control := bitsOf w 0 3, frac := bitsOf w 3 12, ncount := bitsOf w 15 16, rsvd := w &&& 0x80000000 }

/-- R133. -/
def unpackR1 (w : Word) : UnpackedR1 :=
  { control := bitsOf w 0 3, mod := bitsOf w 3 12, phase := bitsOf w 15 12, prescaler := bitsOf w 27 1,
    rsvd := w &&& 0xF0000000 }

/-- R134. -/
def unpackR2 (w : Word) : UnpackedR2 :=
  { control := bitsOf w 0 3, counterReset := bitsOf w 3 1, cpThreeState := bitsOf w 4 1, pd := bitsOf w 5 1,
    pdPolarity := bitsOf w 6 1, ldp := bitsOf w 7 1, ldf := bitsOf w 8 1, chargePump := bitsOf w 9 4,
    doubleBuffer := bitsOf w 13 1, r := bitsOf w 14 10, halfR := bitsOf w 24 1, doubleR := bitsOf w 25 1,
    muxout := bitsOf w 26 3, lowSpur := bitsOf w 29 2, rsvd := w &&& 0x80000000 }

/-- R135. -/
def unpackR3 (w : Word) : UnpackedR3 :=
  { control := bitsOf w 0 3, clockDiv := bitsOf w 3 12, clockDivMode := bitsOf w 15 2, csr := bitsOf w 18 1,
    rsvd := w &&& 0xFFFA0000 }

/-- R136. -/
def unpackR4 (w : Word) : UnpackedR4 :=
  { control := bitsOf w 0 3, outputPower := bitsOf w 3 2, rfOutputEnable := bitsOf w 5 1,
    auxOutputPower := bitsOf w 6 2, auxOutputEnable := bitsOf w 8 1, auxOutputSelect := bitsOf w 9 1,
    mtld := bitsOf w 10 1, vcoPowerDown := bitsOf w 11 1, bandSelectClockDiv := bitsOf w 12 8,
    dividerSelect := bitsOf w 20 3, feedbackSelect := bitsOf w 23 1, rsvd := w &&& 0xFF000000 }

/-- R137. -/
def unpackR5 (w : Word) : UnpackedR5 :=
  { control := bitsOf w 0 3, ldPinMode := bitsOf w 22 2, rsvd := w &&& 0xFF3FFFF8 }

/-! ## Packing: every member must fit its field, and `rsvd` holds no mapped bit -/

/-- One member of an unpacked record beside its field. -/
structure Member where
  name : FieldName
  off : Nat
  width : Nat
  value : Word

/-- R138 to R143, common: the members are tested in the rule's order, then `rsvd` (R257); the image is the OR of `rsvd` and
each member shifted to its offset. -/
def packMembers (members : List Member) (mapped rsvd : Word) : Except Error Word :=
  match members.find? fun m => decide (2 ^ m.width ≤ m.value.toNat) with
  | some m => badArgument (.field m.name)
  | none =>
    if rsvd &&& mapped ≠ 0 then badArgument .rsvd
    else .ok (members.foldl (fun w m => w ||| m.value <<< m.off) rsvd)

/-- R138. -/
def packR0 (u : UnpackedR0) : Except Error Word :=
  packMembers [⟨.control, 0, 3, u.control⟩, ⟨.frac, 3, 12, u.frac⟩, ⟨.ncount, 15, 16, u.ncount⟩] mappedR0 u.rsvd

/-- R139. -/
def packR1 (u : UnpackedR1) : Except Error Word :=
  packMembers [⟨.control, 0, 3, u.control⟩, ⟨.mod, 3, 12, u.mod⟩, ⟨.phase, 15, 12, u.phase⟩,
    ⟨.prescaler, 27, 1, u.prescaler⟩] mappedR1 u.rsvd

/-- R140. -/
def packR2 (u : UnpackedR2) : Except Error Word :=
  packMembers [⟨.control, 0, 3, u.control⟩, ⟨.counterReset, 3, 1, u.counterReset⟩,
    ⟨.cpThreeState, 4, 1, u.cpThreeState⟩, ⟨.pd, 5, 1, u.pd⟩, ⟨.pdPolarity, 6, 1, u.pdPolarity⟩, ⟨.ldp, 7, 1, u.ldp⟩,
    ⟨.ldf, 8, 1, u.ldf⟩, ⟨.chargePump, 9, 4, u.chargePump⟩, ⟨.doubleBuffer, 13, 1, u.doubleBuffer⟩, ⟨.r, 14, 10, u.r⟩,
    ⟨.halfR, 24, 1, u.halfR⟩, ⟨.doubleR, 25, 1, u.doubleR⟩, ⟨.muxout, 26, 3, u.muxout⟩, ⟨.lowSpur, 29, 2, u.lowSpur⟩]
    mappedR2 u.rsvd

/-- R141. -/
def packR3 (u : UnpackedR3) : Except Error Word :=
  packMembers [⟨.control, 0, 3, u.control⟩, ⟨.clockDiv, 3, 12, u.clockDiv⟩, ⟨.clockDivMode, 15, 2, u.clockDivMode⟩,
    ⟨.csr, 18, 1, u.csr⟩] mappedR3 u.rsvd

/-- R142. -/
def packR4 (u : UnpackedR4) : Except Error Word :=
  packMembers [⟨.control, 0, 3, u.control⟩, ⟨.outputPower, 3, 2, u.outputPower⟩,
    ⟨.rfOutputEnable, 5, 1, u.rfOutputEnable⟩, ⟨.auxOutputPower, 6, 2, u.auxOutputPower⟩,
    ⟨.auxOutputEnable, 8, 1, u.auxOutputEnable⟩, ⟨.auxOutputSelect, 9, 1, u.auxOutputSelect⟩, ⟨.mtld, 10, 1, u.mtld⟩,
    ⟨.vcoPowerDown, 11, 1, u.vcoPowerDown⟩, ⟨.bandSelectClockDiv, 12, 8, u.bandSelectClockDiv⟩,
    ⟨.dividerSelect, 20, 3, u.dividerSelect⟩, ⟨.feedbackSelect, 23, 1, u.feedbackSelect⟩] mappedR4 u.rsvd

/-- R143. -/
def packR5 (u : UnpackedR5) : Except Error Word :=
  packMembers [⟨.control, 0, 3, u.control⟩, ⟨.ldPinMode, 22, 2, u.ldPinMode⟩] mappedR5 u.rsvd

/-! ## The register block (R42) -/

/-- R145: Register0 first, each image big-endian. -/
def packBlock (x : RegBlock) : Bytes := putRegBlock x

/-- R144: InvalidArgument unless there are exactly 24 bytes. -/
def unpackBlock (b : Bytes) : Except Error RegBlock :=
  match takeRegBlock b with
  | some (x, []) => .ok x
  | _ => badArgument .length

/-! ## Meanings -/

/-- UNPACKR0 (R132). -/
def execUnpackr0 (w : Word) (s : State) : Host.Outcome State Fault Refusal := give (.ok (.unpackedR0 (unpackR0 w))) s

/-- UNPACKR1 (R133). -/
def execUnpackr1 (w : Word) (s : State) : Host.Outcome State Fault Refusal := give (.ok (.unpackedR1 (unpackR1 w))) s

/-- UNPACKR2 (R134). -/
def execUnpackr2 (w : Word) (s : State) : Host.Outcome State Fault Refusal := give (.ok (.unpackedR2 (unpackR2 w))) s

/-- UNPACKR3 (R135). -/
def execUnpackr3 (w : Word) (s : State) : Host.Outcome State Fault Refusal := give (.ok (.unpackedR3 (unpackR3 w))) s

/-- UNPACKR4 (R136). -/
def execUnpackr4 (w : Word) (s : State) : Host.Outcome State Fault Refusal := give (.ok (.unpackedR4 (unpackR4 w))) s

/-- UNPACKR5 (R137). -/
def execUnpackr5 (w : Word) (s : State) : Host.Outcome State Fault Refusal := give (.ok (.unpackedR5 (unpackR5 w))) s

/-- FGET (R130). -/
def execFget (w : Word) (off width : Nat) (s : State) : Host.Outcome State Fault Refusal :=
  give ((getField w off width).map .word) s

/-- FSET (R131). -/
def execFset (w : Word) (off width : Nat) (v : Word) (s : State) : Host.Outcome State Fault Refusal :=
  give ((setField w off width v).map .word) s

/-- PACKR0 (R138). -/
def execPackr0 (u : UnpackedR0) (s : State) : Host.Outcome State Fault Refusal := give ((packR0 u).map .word) s

/-- PACKR1 (R139). -/
def execPackr1 (u : UnpackedR1) (s : State) : Host.Outcome State Fault Refusal := give ((packR1 u).map .word) s

/-- PACKR2 (R140). -/
def execPackr2 (u : UnpackedR2) (s : State) : Host.Outcome State Fault Refusal := give ((packR2 u).map .word) s

/-- PACKR3 (R141). -/
def execPackr3 (u : UnpackedR3) (s : State) : Host.Outcome State Fault Refusal := give ((packR3 u).map .word) s

/-- PACKR4 (R142). -/
def execPackr4 (u : UnpackedR4) (s : State) : Host.Outcome State Fault Refusal := give ((packR4 u).map .word) s

/-- PACKR5 (R143). -/
def execPackr5 (u : UnpackedR5) (s : State) : Host.Outcome State Fault Refusal := give ((packR5 u).map .word) s

/-- UNPACKBLK (R144). -/
def execUnpackblk (b : Bytes) (s : State) : Host.Outcome State Fault Refusal := give ((unpackBlock b).map .block) s

/-- PACKBLK (R145). -/
def execPackblk (x : RegBlock) (s : State) : Host.Outcome State Fault Refusal := give (.ok (.bytes (packBlock x))) s

end Sys2Proof.Machine
end

