-- ==== Sys2Proof/Machine/ValueMaps.lean ====
section
/-!
DEFINITION. The value-code maps (spec/42_register_codec.md section 5, code tables of spec/30_encoding.md R69 to R71): DBFENC, DBFDEC,
RFLENC, RFLDEC, LSPENC, LSPDEC.
-/

namespace Sys2Proof.Machine

/-- R146. -/
def encodeDbf (dbf : Word) : Except Error Word :=
  match dbf.toNat with
  | 1 => .ok 0
  | 2 => .ok 1
  | 4 => .ok 2
  | 8 => .ok 3
  | 16 => .ok 4
  | _ => badArgument .dbf

/-- R147: codes 5 to 7 are reserved, a code above 7 cannot come from the field. -/
def decodeDbf (code : Word) : Except Error Word :=
  match code.toNat with
  | 0 => .ok 1
  | 1 => .ok 2
  | 2 => .ok 4
  | 3 => .ok 8
  | 4 => .ok 16
  | 5 | 6 | 7 => .error (.reservedCode .dividerSelect code)
  | _ => badArgument .code

/-- R148: the exact table, no rounding to the nearest level. -/
def encodeRfLevel (level : SWord) : Except Error Word :=
  if level.toInt = -4 then .ok 0
  else if level.toInt = -1 then .ok 1
  else if level.toInt = 2 then .ok 2
  else if level.toInt = 5 then .ok 3
  else badArgument .rfLevel

/-- R149. -/
def decodeRfLevel (code : Word) : Except Error SWord :=
  match code.toNat with
  | 0 => .ok (BitVec.ofInt 32 (-4))
  | 1 => .ok (BitVec.ofInt 32 (-1))
  | 2 => .ok 2
  | 3 => .ok 5
  | _ => badArgument .code

/-- R150: both bits of the field together. -/
def encodeLowSpur (v : Bool) : Word := if v then 3 else 0

/-- R151: raw 1 and 2 are reserved, a raw value above 3 cannot come from the field. -/
def decodeLowSpur (raw : Word) : Except Error Bool :=
  match raw.toNat with
  | 0 => .ok false
  | 3 => .ok true
  | 1 | 2 => .error (.reservedCode .lowSpur raw)
  | _ => badArgument .code

/-- DBFENC (R146). -/
def execDbfenc (dbf : Word) (s : State) : Host.Outcome State Fault Refusal := give ((encodeDbf dbf).map .word) s

/-- DBFDEC (R147). -/
def execDbfdec (code : Word) (s : State) : Host.Outcome State Fault Refusal := give ((decodeDbf code).map .word) s

/-- RFLENC (R148). -/
def execRflenc (level : SWord) (s : State) : Host.Outcome State Fault Refusal := give ((encodeRfLevel level).map .word) s

/-- RFLDEC (R149). -/
def execRfldec (code : Word) (s : State) : Host.Outcome State Fault Refusal := give ((decodeRfLevel code).map .level) s

/-- LSPENC (R150). -/
def execLspenc (v : Bool) (s : State) : Host.Outcome State Fault Refusal := give (.ok (.word (encodeLowSpur v))) s

/-- LSPDEC (R151). -/
def execLspdec (raw : Word) (s : State) : Host.Outcome State Fault Refusal := give ((decodeLowSpur raw).map .bool) s

end Sys2Proof.Machine
end

