-- ==== Sys2Proof/Machine/Projection.lean ====
section
/-!
DEFINITION. The register-field projections (spec/45_controller_projections.md section 1): GETFS, SETFS, GETOPT, SETOPT, GETRFL, SETRFL.
The FSETs of these rules cannot fail once the rule's own tests have passed, so they are written with `putField`.
-/

namespace Sys2Proof.Machine

/-- R210: nothing is checked but the divider code. -/
def getSetting (x : RegBlock) : Except Error FrequencySetting :=
  (decodeDbf (bitsOf x.r4 20 3)).map fun dbf =>
    { ncount := bitsOf x.r0 15 16, frac := bitsOf x.r0 3 12, mod := bitsOf x.r1 3 12, dbf := dbf }

/-- R211: tests in the order ncount, frac, mod, dbf, then only the fields ncount, frac, mod and divider_select change. `frac < mod`
is not tested (decision D27). -/
def setSetting (x : RegBlock) (fs : FrequencySetting) : Except Error RegBlock :=
  if 65536 ≤ fs.ncount.toNat then badArgument (.field .ncount)
  else if 4096 ≤ fs.frac.toNat then badArgument (.field .frac)
  else if 4096 ≤ fs.mod.toNat ∨ fs.mod = 0 then badArgument (.field .mod)
  else (encodeDbf fs.dbf).map fun code =>
    { x with
      r0 := putField (putField x.r0 15 16 fs.ncount) 3 12 fs.frac
      r1 := putField x.r1 3 12 fs.mod
      r4 := putField x.r4 20 3 code }

/-- R212. -/
def getOptionsOf (x : RegBlock) : Except Error Options :=
  (decodeLowSpur (bitsOf x.r2 29 2)).map fun lowSpur =>
    { doubleRef := bitsOf x.r2 25 1 == 1, halfRef := bitsOf x.r2 24 1 == 1, r := bitsOf x.r2 14 10, lowSpur := lowSpur }

/-- The 1-bit field value of a Boolean (R213). -/
def bitOf (v : Bool) : Word := if v then 1 else 0

/-- R213: only Register2 changes. -/
def setOptionsOf (x : RegBlock) (o : Options) : Except Error RegBlock :=
  if 1024 ≤ o.r.toNat then badArgument (.field .r)
  else
    let w := putField x.r2 25 1 (bitOf o.doubleRef)
    let w := putField w 24 1 (bitOf o.halfRef)
    let w := putField w 14 10 o.r
    .ok { x with r2 := putField w 29 2 (encodeLowSpur o.lowSpur) }

/-- R214: the level code is `output_power` of Register4 (decision D10). -/
def getLevel (x : RegBlock) : Except Error SWord := decodeRfLevel (bitsOf x.r4 3 2)

/-- R215: only bits 4:3 of Register4 change. -/
def setLevel (x : RegBlock) (level : SWord) : Except Error RegBlock :=
  (encodeRfLevel level).map fun code => { x with r4 := putField x.r4 3 2 code }

/-- GETFS (R210). -/
def execGetfs (x : RegBlock) (s : State) : Host.Outcome State Fault Refusal := give ((getSetting x).map .setting) s

/-- SETFS (R211). -/
def execSetfs (x : RegBlock) (fs : FrequencySetting) (s : State) : Host.Outcome State Fault Refusal :=
  give ((setSetting x fs).map .block) s

/-- GETOPT (R212). -/
def execGetopt (x : RegBlock) (s : State) : Host.Outcome State Fault Refusal := give ((getOptionsOf x).map .options) s

/-- SETOPT (R213). -/
def execSetopt (x : RegBlock) (o : Options) (s : State) : Host.Outcome State Fault Refusal :=
  give ((setOptionsOf x o).map .block) s

/-- GETRFL (R214). -/
def execGetrfl (x : RegBlock) (s : State) : Host.Outcome State Fault Refusal := give ((getLevel x).map .level) s

/-- SETRFL (R215). -/
def execSetrfl (x : RegBlock) (level : SWord) (s : State) : Host.Outcome State Fault Refusal :=
  give ((setLevel x level).map .block) s

end Sys2Proof.Machine
end

