-- ==== Sys2Proof/Machine/Reducer.lean ====
section
/-!
DEFINITION. The fraction reducer unit (spec/44_fraction_reducer.md): GCD, REDUCE.
-/

namespace Sys2Proof.Machine

/-- R201 over non-negative integers: divide both by their greatest common divisor, or (0, 1) when either is 0. -/
def reducePair (frac mod : Nat) : Nat × Nat :=
  if frac ≠ 0 ∧ mod ≠ 0 then (frac / Nat.gcd frac mod, mod / Nat.gcd frac mod) else (0, 1)

/-- GCD (R200): the mathematical greatest common divisor (decision D12). -/
def execGcd (a b : Word) (s : State) : Host.Outcome State Fault Refusal :=
  give (.ok (.word (BitVec.ofNat 32 (Nat.gcd a.toNat b.toNat)))) s

/-- REDUCE (R201). -/
def execReduce (frac mod : Word) (s : State) : Host.Outcome State Fault Refusal :=
  let p := reducePair frac.toNat mod.toNat
  give (.ok (.fraction (BitVec.ofNat 32 p.1) (BitVec.ofNat 32 p.2))) s

end Sys2Proof.Machine
end

