-- ==== Sys2Proof/Machine/HostMath.lean ====
section
/-!
DEFINITION. The host's PLL arithmetic (spec/46_host_pll_math.md) over exact rationals (R239, decision D23; log entry 11): the computed part of
getEPDF, getFrequency and setFrequency, without the exchanges.
-/

namespace Sys2Proof.Machine

/-- R230: the effective phase detector frequency in MHz; no division for `r` 0 or 1. -/
def epdfOf (hz : Word) (o : Options) : Rat :=
  let ref : Rat := (hz.toNat : Rat) / 1000000
  let ref := if o.doubleRef then ref * 2 else ref
  let ref := if o.halfRef then ref / 2 else ref
  if 1 < o.r.toNat then ref / (o.r.toNat : Rat) else ref

/-- R231: `(ncount + frac/mod) * epdf / dbf`, a real quotient; `mod = 0` is refused. -/
def frequencyOf (fs : FrequencySetting) (epdf : Rat) : Except Error Rat :=
  if fs.mod = 0 then badArgument .modZero
  else .ok (((fs.ncount.toNat : Rat) + (fs.frac.toNat : Rat) / (fs.mod.toNat : Rat)) * epdf / (fs.dbf.toNat : Rat))

/-- R233: `while freq * dbf <= low and dbf < 16: dbf *= 2`, from the given `dbf`, at most `fuel` times round. -/
def dividerLoop (freq low : Rat) : Nat → Nat → Nat
  | 0, dbf => dbf
  | fuel + 1, dbf => if freq * (dbf : Rat) ≤ low ∧ dbf < 16 then dividerLoop freq low fuel (dbf * 2) else dbf

/-- R233: the output divider. Four times round the loop bring 1 to 16 (R278). -/
def chooseDivider (freq : Rat) (low : Half) : Nat := dividerLoop freq (low.toNat : Rat) 4 1

/-- R238: `floor(t + 0.5)` where ROUND_HALF_UP is true, `floor(t)` where it is false. -/
def roundWith (halfUp : Bool) (t : Rat) : Int := if halfUp then (t + 1 / 2).floor else t.floor

/-- The quadruple of steps 4 to 7 before it is given to SETFS: non-negative integers of any size. -/
structure RawSetting where
  ncount : Nat
  frac : Nat
  mod : Nat
  dbf : Nat
deriving DecidableEq, Repr

/-- R234 to R237, steps 3 to 7: `epdf = 0` and a negative `vco` are refused (log entry 12); the reduced pair. -/
def computeSetting (halfUp : Bool) (freq spacing epdf : Rat) (dbf : Nat) : Except Error RawSetting :=
  let vco := freq * (dbf : Rat)
  if epdf = 0 then badArgument .epdfZero
  else if vco < 0 then badArgument .vcoNegative
  else
    let ncount := (vco / epdf).floor
    let frac := roundWith halfUp ((vco - (ncount : Rat) * epdf) / spacing)
    let mod := roundWith halfUp (epdf / spacing)
    let p := reducePair frac.toNat mod.toNat
    .ok ⟨ncount.toNat, p.1, p.2, dbf⟩

/-- R237, step 8: SETFS of the computed quadruple. A member too large for its field is refused by SETFS's own tests in their order,
those too large for a `u32` among them (log entry 10). -/
def setRawSetting (raw : RawSetting) (x : RegBlock) : Except Error RegBlock :=
  if 65536 ≤ raw.ncount then badArgument (.field .ncount)
  else if 4096 ≤ raw.frac then badArgument (.field .frac)
  else if 4096 ≤ raw.mod then badArgument (.field .mod)
  else setSetting x ⟨BitVec.ofNat 32 raw.ncount, BitVec.ofNat 32 raw.frac, BitVec.ofNat 32 raw.mod, BitVec.ofNat 32 raw.dbf⟩

end Sys2Proof.Machine
end

