-- ==== Sys2Proof/Machine/Framer.lean ====
section
/-!
DEFINITION. The checksum framer unit (spec/40_checksum_framer.md): CKSUM, CKVERIFY, FRAMEW, FRAMER, ACKCHK, RESPCHK.
-/

namespace Sys2Proof.Machine

/-- R90: "sum of all bytes modulo 256". -/
def checksum (b : Bytes) : Byte := b.foldl (· + ·) 0

/-- R91: `checksum(bytes) == expected`. -/
def verifyChecksum (b : Bytes) (expected : Byte) : Bool := checksum b == expected

/-- R93, R92: `[address][payload][checksum]`, the checksum over address and payload. -/
def writeFrame (address : Byte) (payload : Bytes) : Bytes :=
  address :: payload ++ [checksum (address :: payload)]

/-- R94: the address alone. -/
def readFrame (address : Byte) : Bytes := [address]

/-- R95: the test of an acknowledgement. -/
def checkAck : Bytes → Except Error Unit
  | [] => .error (.transport .rxRead 1 0)
  | [b] => if b = Config.ack then .ok () else .error (.protocol b)
  | _ :: _ :: _ => badArgument .rxTooLong

/-- R96: split and verify a read response. The length is tested first, so a short response is never checksummed. -/
def checkResponse (rx : Bytes) (expectedLen : Nat) : Except Error Bytes :=
  if rx.length < expectedLen + 1 then .error (.transport .rxRead (expectedLen + 1) rx.length)
  else if rx.length > expectedLen + 1 then badArgument .rxTooLong
  else
    let payload := rx.take expectedLen
    let received := rx.getD expectedLen 0
    if verifyChecksum payload received then .ok payload
    else .error (.checksum (checksum payload) received)

/-- CKSUM (R90). -/
def execCksum (b : Bytes) (s : State) : Host.Outcome State Fault Refusal := give (.ok (.byte (checksum b))) s

/-- CKVERIFY (R91): a mismatch is the result false, not an error. -/
def execCkverify (b : Bytes) (expected : Byte) (s : State) : Host.Outcome State Fault Refusal :=
  give (.ok (.bool (verifyChecksum b expected))) s

/-- FRAMEW (R93). -/
def execFramew (address : Byte) (payload : Bytes) (s : State) : Host.Outcome State Fault Refusal :=
  give (.ok (.bytes (writeFrame address payload))) s

/-- FRAMER (R94). -/
def execFramer (address : Byte) (s : State) : Host.Outcome State Fault Refusal :=
  give (.ok (.bytes (readFrame address))) s

/-- ACKCHK (R95). -/
def execAckchk (rx : Bytes) (s : State) : Host.Outcome State Fault Refusal :=
  give ((checkAck rx).map fun _ => .none) s

/-- RESPCHK (R96). -/
def execRespchk (rx : Bytes) (expectedLen : Nat) (s : State) : Host.Outcome State Fault Refusal :=
  give ((checkResponse rx expectedLen).map .bytes) s

end Sys2Proof.Machine
end

