-- ==== Sys2Proof/Machine/Flags.lean ====
section
/-!
DEFINITION. The block has no flags (spec/10_state.md R35: every operation rule says "Flags: none"). What stands in their place:
the status of a response (spec/60_exceptions.md R250) and the bits of the device's status byte (spec/30_encoding.md R72).
-/

namespace Sys2Proof.Machine

/-- R250: the numeric code of an error status. -/
def errorCode : Error → Nat
  | .transport _ _ _ => 1
  | .checksum _ _ => 2
  | .protocol _ => 3
  | .invalidArgument _ => 4
  | .reservedCode _ _ => 5

/-- R250: the numeric status of a response; OK is 0. -/
def statusCode : Response → Nat
  | .ok _ => 0
  | .error e => errorCode e

/-- R118: the phase-lock bit of a channel in the status byte, bit 5 for A and bit 4 for B; set means locked (decision D19). -/
def phaseLocked (id : ChannelId) (status : Byte) : Bool :=
  let mask : Byte := match id with
    | .a => 0x20
    | .b => 0x10
  status &&& mask != 0

/-- R119: the reference select, bit 0 of the status byte: 1 is external. -/
def externalReference (status : Byte) : Bool := status.extractLsb' 0 1 == 1

end Sys2Proof.Machine
end

