-- ==== Sys2Proof/Machine/Scalar.lean ====
section
/-!
DEFINITION. The scalar codecs (spec/41_scalar_codecs.md): PACKU32, UNPACKU32, PACKU16, UNPACKU16, PACKBOOL, LABELFIT, PACKVCO,
UNPACKVCO, STPHASE, STREFSEL.
-/

namespace Sys2Proof.Machine

/-- R111: InvalidArgument unless there are exactly four bytes. -/
def unpackU32 : Bytes → Except Error Word
  | [b0, b1, b2, b3] => .ok (joinU32 b0 b1 b2 b3)
  | _ => badArgument .length

/-- R113: InvalidArgument unless there are exactly two bytes. -/
def unpackU16 : Bytes → Except Error Half
  | [b0, b1] => .ok (joinU16 b0 b1)
  | _ => badArgument .length

/-- R114: 0x01 for true, 0x00 for false. -/
def packBool (v : Bool) : Bytes := if v then [0x01] else [0x00]

/-- R115: the first 16 bytes, or the bytes followed by zeros up to 16. -/
def fitLabel (l : Bytes) : Bytes :=
  if 16 ≤ l.length then l.take 16 else l ++ List.replicate (16 - l.length) 0

/-- R116: `low` first. -/
def packVco (v : VcoRange) : Bytes := packU16 v.low ++ packU16 v.high

/-- R117: InvalidArgument unless there are exactly four bytes. -/
def unpackVco : Bytes → Except Error VcoRange
  | [b0, b1, b2, b3] => .ok ⟨joinU16 b0 b1, joinU16 b2 b3⟩
  | _ => badArgument .length

/-- PACKU32 (R110). -/
def execPacku32 (v : Word) (s : State) : Host.Outcome State Fault Refusal := give (.ok (.bytes (packU32 v))) s

/-- UNPACKU32 (R111). -/
def execUnpacku32 (b : Bytes) (s : State) : Host.Outcome State Fault Refusal := give ((unpackU32 b).map .word) s

/-- PACKU16 (R112). -/
def execPacku16 (v : Half) (s : State) : Host.Outcome State Fault Refusal := give (.ok (.bytes (packU16 v))) s

/-- UNPACKU16 (R113). -/
def execUnpacku16 (b : Bytes) (s : State) : Host.Outcome State Fault Refusal := give ((unpackU16 b).map .half) s

/-- PACKBOOL (R114). -/
def execPackbool (v : Bool) (s : State) : Host.Outcome State Fault Refusal := give (.ok (.bytes (packBool v))) s

/-- LABELFIT (R115). -/
def execLabelfit (l : Bytes) (s : State) : Host.Outcome State Fault Refusal := give (.ok (.bytes (fitLabel l))) s

/-- PACKVCO (R116): `low > high` is packed as given. -/
def execPackvco (low high : Half) (s : State) : Host.Outcome State Fault Refusal :=
  give (.ok (.bytes (packVco ⟨low, high⟩))) s

/-- UNPACKVCO (R117). -/
def execUnpackvco (b : Bytes) (s : State) : Host.Outcome State Fault Refusal := give ((unpackVco b).map .vco) s

/-- STPHASE (R118). -/
def execStphase (id : ChannelId) (status : Byte) (s : State) : Host.Outcome State Fault Refusal :=
  give (.ok (.bool (phaseLocked id status))) s

/-- STREFSEL (R119). -/
def execStrefsel (status : Byte) (s : State) : Host.Outcome State Fault Refusal :=
  give (.ok (.bool (externalReference status))) s

end Sys2Proof.Machine
end

