-- ==== Sys2Proof/Machine/Exchange.lean ====
section
/-!
DEFINITION. The device's items and the two exchanges over the transport (spec/43_command_protocol.md R171, R172, R173; what a failed
write leaves: spec/20_memory.md R53, spec/60_exceptions.md R260).
-/

namespace Sys2Proof.Machine

/-! ## The items of the device, by command (R40, R44) -/

/-- The bank of a channel (R21). -/
def Device.bank (d : Device) : ChannelId → Bank
  | .a => d.bankA
  | .b => d.bankB

/-- Replace the bank of a channel. -/
def Device.setBank (d : Device) (id : ChannelId) (k : Bank) : Device :=
  match id with
  | .a => { d with bankA := k }
  | .b => { d with bankB := k }

/-- The payload a read command's item has on the wire (R67); nothing for a write command. One shared status byte answers at both
of its addresses (R32, log entry 6). -/
def deviceItem (d : Device) (id : ChannelId) : Command → Option Bytes
  | .getRegs => some (packBlock (d.bank id).regs)
  | .getLabel => some (d.bank id).label.toList
  | .getVco => some (packVco (d.bank id).vco)
  | .getRef => some (packU32 d.reference)
  | .getStatus => some [d.status]
  | .setRegs | .setLabel | .setVco | .setRef | .setRefsel | .flash => none

/-- The device after it took a write command's payload (R67, R33); nothing where the command writes no item or the payload is not
its payload. -/
def storeItem (d : Device) (id : ChannelId) (payload : Bytes) : Command → Option Device
  | .setRegs => match unpackBlock payload with
    | .ok x => some (d.setBank id { d.bank id with regs := x })
    | .error _ => none
  | .setLabel =>
    if h : payload.length = 16 then some (d.setBank id { d.bank id with label := ⟨payload.toArray, by simpa using h⟩ })
    else none
  | .setVco => match unpackVco payload with
    | .ok v => some (d.setBank id { d.bank id with vco := v })
    | .error _ => none
  | .setRef => match unpackU32 payload with
    | .ok hz => some { d with reference := hz }
    | .error _ => none
  | .setRefsel => match payload with
    | [b] =>
      if b = 0x00 then some { d with status := d.status &&& 0xFE }
      else if b = 0x01 then some { d with status := d.status ||| 0x01 }
      else none
    | _ => none
  | .flash => match payload with
    | [] => some { d with nvram := ⟨d.bankA, d.bankB⟩ }
    | _ :: _ => none
  | .getRegs | .getLabel | .getVco | .getRef | .getStatus => none

/-- The device after it took the payload of a write frame at an address; nothing at an address that no write command has and for a
payload that is not the command's, where the spec leaves the effect open (R47, R73; `deviceAfterWrite`, log entry 18). -/
def storeAt (d : Device) (address : Byte) (payload : Bytes) : Option Device :=
  match commandAt address with
  | some (c, id) => storeItem d id payload c
  | none => none

/-- R63, R187: an attached device's reply to a read request: the item and its checksum. To an address that is no read address it
sends nothing (log entry 6). -/
def readReply (d : Device) (address : Byte) : Bytes :=
  match commandAt address with
  | some (c, id) => match deviceItem d id c with
    | some p => p ++ [checksum p]
    | none => []
  | none => []

/-- R61, R187: an attached device's reply to a write frame: ACK where it takes the payload. To any other frame it sends nothing
(log entry 6). -/
def writeReply (d : Device) (address : Byte) (payload : Bytes) : Bytes :=
  match storeAt d address payload with
  | some _ => [Config.ack]
  | none => []

/-! ## The transport oracle (R173) -/

/-- The draw of the next exchange: what the transport has in store, or a free value. -/
def nextDraw (s : State) : Draw :=
  match s.link with
  | d :: _ => d
  | [] => Config.freeDraw s.draws

/-- That draw is used up, and the byte string was given to TxWrite. -/
def State.transmit (s : State) (frame : Bytes) : State :=
  match s.link with
  | _ :: rest => { s with link := rest, sent := s.sent ++ [frame] }
  | [] => { s with draws := s.draws + 1, sent := s.sent ++ [frame] }

/-- TxWrite: how many of `n` bytes the transport accepted, at most `n`. -/
def accepted (d : Draw) (n : Nat) : Nat :=
  match d.accepted with
  | none => n
  | some k => min k n

/-- RxRead: at most `n` bytes, where an attached device would reply `reply`. -/
def received (d : Draw) (reply : Bytes) (n : Nat) : Bytes :=
  match d.answer with
  | .bytes b => b.take n
  | .faithful => reply.take n

/-- R53, R260: the device after a whole write frame was sent and `rx` came back: after ACK the written item, or whatever it then
holds (N13); after any other byte unchanged; without a byte the old item or the new one (U9). Of a frame that writes no item (an
address no write command has, or a payload that is not the command's) the spec says nothing (R47, N8, N30, U13): with ACK, and
without a byte, the draw gives any device; that any other byte leaves it unchanged is the model's reading of R53 (DEDUCED, log
entry 18). -/
def deviceAfterWrite (d : Draw) (rx : Bytes) (dev : Device) (address : Byte) (payload : Bytes) : Device :=
  match rx with
  | [] => if d.applied then (storeAt dev address payload).getD (d.drift.getD dev) else dev
  | b :: _ => if b = Config.ack then d.drift.getD ((storeAt dev address payload).getD dev) else dev

/-- R171: a write exchange. After a short write no read is attempted and the device is as it was (R279,
log entry 13). -/
def xwrite (address : Byte) (payload : Bytes) : Action Unit := fun s =>
  let d := nextDraw s
  let frame := writeFrame address payload
  let s' := s.transmit frame
  let n := accepted d frame.length
  if n ≠ frame.length then (.error (.transport .txWrite frame.length n), s')
  else
    let rx := received d (writeReply s.device address payload) 1
    (checkAck rx, { s' with device := deviceAfterWrite d rx s.device address payload })

/-- R172: a read exchange. The device's items may have moved before it answers (N11, R46; log entry 13). -/
def xread (address : Byte) (expectedLen : Nat) : Action Bytes := fun s =>
  let d := nextDraw s
  let s' := s.transmit (readFrame address)
  let n := accepted d 1
  if n ≠ 1 then (.error (.transport .txWrite 1 n), s')
  else
    let dev := d.drift.getD s.device
    let rx := received d (readReply dev address) (expectedLen + 1)
    (checkResponse rx expectedLen, { s' with device := dev })

end Sys2Proof.Machine
end

