-- ==== Sys2Proof/Machine/Protocol.lean ====
section
/-!
DEFINITION. The command protocol (spec/43_command_protocol.md): MKADDR, XWRITE, XREAD, the eleven wire commands, read-modify-write.
-/

namespace Sys2Proof.Machine

/-- R170: a per-channel command needs a channel id; a shared command ignores one. -/
def makeAddress (c : Command) : Option ChannelId → Except Error Byte
  | some id => .ok (addressOf c id)
  | none => if perChannel c then badArgument .missingId else .ok (baseAddress c)

/-! ## The wire commands as actions -/

/-- R174. -/
def readRegs (id : ChannelId) : Action RegBlock :=
  andThen (xread (addressOf .getRegs id) 24) fun b => pureStep (unpackBlock b)

/-- R175. -/
def writeRegs (id : ChannelId) (x : RegBlock) : Action Unit := xwrite (addressOf .setRegs id) (packBlock x)

/-- R176. -/
def readLabel (id : ChannelId) : Action Bytes := xread (addressOf .getLabel id) 16

/-- R177: a payload that has not 16 bytes is refused before any byte is sent (decision D32). -/
def writeLabel (id : ChannelId) (l : Bytes) : Action Unit :=
  if l.length ≠ 16 then pureStep (badArgument .length) else xwrite (addressOf .setLabel id) l

/-- R178. -/
def readVco (id : ChannelId) : Action VcoRange :=
  andThen (xread (addressOf .getVco id) 4) fun b => pureStep (unpackVco b)

/-- R179. -/
def writeVco (id : ChannelId) (v : VcoRange) : Action Unit := xwrite (addressOf .setVco id) (packVco v)

/-- R180. -/
def readRef : Action Word := andThen (xread (baseAddress .getRef) 4) fun b => pureStep (unpackU32 b)

/-- R181. -/
def writeRef (hz : Word) : Action Unit := xwrite (baseAddress .setRef) (packU32 hz)

/-- R182: the one payload byte. -/
def readStatus (id : ChannelId) : Action Byte :=
  andThen (xread (addressOf .getStatus id) 1) fun b => pureStep (.ok (b.headD 0))

/-- R183. -/
def writeRefsel (v : Bool) : Action Unit := xwrite (baseAddress .setRefsel) (packBool v)

/-- R184. -/
def sendFlash : Action Unit := xwrite (baseAddress .flash) []

/-- R186: read all six registers, change the copy, write all six; an error at any step ends it, and nothing is written unless the
read and the change succeeded. -/
def readModifyWrite (id : ChannelId) (f : RegBlock → Except Error RegBlock) : Action Unit :=
  andThen (readRegs id) fun x => andThen (pureStep (f x)) fun x' => writeRegs id x'

/-! ## Meanings -/

/-- MKADDR (R170). -/
def execMkaddr (cmd : Command) (id : Option ChannelId) (s : State) : Host.Outcome State Fault Refusal :=
  give ((makeAddress cmd id).map .byte) s

/-- XWRITE (R171): any address byte is accepted (decision D21). -/
def execXwrite (address : Byte) (payload : Bytes) (s : State) : Host.Outcome State Fault Refusal :=
  answer (asValue (fun _ => .none) (xwrite address payload) s)

/-- XREAD (R172): any address byte is accepted (decision D21). -/
def execXread (address : Byte) (expectedLen : Nat) (s : State) : Host.Outcome State Fault Refusal :=
  answer (asValue .bytes (xread address expectedLen) s)

/-- GET_REGS (R174). -/
def execGetRegs (id : ChannelId) (s : State) : Host.Outcome State Fault Refusal :=
  answer (asValue .block (readRegs id) s)

/-- SET_REGS (R175). -/
def execSetRegs (id : ChannelId) (x : RegBlock) (s : State) : Host.Outcome State Fault Refusal :=
  answer (asValue (fun _ => .none) (writeRegs id x) s)

/-- GET_LABEL (R176). -/
def execGetLabel (id : ChannelId) (s : State) : Host.Outcome State Fault Refusal :=
  answer (asValue .bytes (readLabel id) s)

/-- SET_LABEL (R177). -/
def execSetLabel (id : ChannelId) (l : Bytes) (s : State) : Host.Outcome State Fault Refusal :=
  answer (asValue (fun _ => .none) (writeLabel id l) s)

/-- GET_VCO (R178). -/
def execGetVco (id : ChannelId) (s : State) : Host.Outcome State Fault Refusal :=
  answer (asValue .vco (readVco id) s)

/-- SET_VCO (R179). -/
def execSetVco (id : ChannelId) (low high : Half) (s : State) : Host.Outcome State Fault Refusal :=
  answer (asValue (fun _ => .none) (writeVco id ⟨low, high⟩) s)

/-- GET_REF (R180). -/
def execGetRef (s : State) : Host.Outcome State Fault Refusal := answer (asValue .word readRef s)

/-- SET_REF (R181). -/
def execSetRef (hz : Word) (s : State) : Host.Outcome State Fault Refusal :=
  answer (asValue (fun _ => .none) (writeRef hz) s)

/-- GET_STATUS (R182). -/
def execGetStatus (id : ChannelId) (s : State) : Host.Outcome State Fault Refusal :=
  answer (asValue .byte (readStatus id) s)

/-- SET_REFSEL (R183). -/
def execSetRefsel (v : Bool) (s : State) : Host.Outcome State Fault Refusal :=
  answer (asValue (fun _ => .none) (writeRefsel v) s)

/-- FLASH (R184): no local effect beyond the acknowledgement check. -/
def execFlash (s : State) : Host.Outcome State Fault Refusal := answer (asValue (fun _ => .none) sendFlash s)

end Sys2Proof.Machine
end

