-- ==== Sys2Proof/Machine/Controller.lean ====
section
/-!
DEFINITION. The sixteen controller functions (spec/45_controller_projections.md R216 to R229, spec/46_host_pll_math.md R230 to R237) as
sequences of the block's operations. Argument errors come before any exchange; an error at any step ends the function.
-/

namespace Sys2Proof.Machine

/-- R230: GET_REF, then GET_REGS (decision D28). -/
def callEpdf (id : ChannelId) : Action Rat :=
  andThen readRef fun hz => andThen (readRegs id) fun x => andThen (pureStep (getOptionsOf x)) fun o =>
    pureStep (.ok (epdfOf hz o))

/-- R231: GET_REGS, GET_REF, GET_REGS. -/
def callGetFrequency (id : ChannelId) : Action Rat :=
  andThen (readRegs id) fun x => andThen (pureStep (getSetting x)) fun fs => andThen (callEpdf id) fun epdf =>
    pureStep (frequencyOf fs epdf)

/-- R232: GET_VCO, GET_REF, GET_REGS, GET_REGS, SET_REGS. A spacing that is not positive is refused before any exchange (R235). -/
def callSetFrequency (id : ChannelId) (freq : Rat) (spacing : Option Rat) : Action Unit :=
  let spacing := spacing.getD Config.defaultSpacing
  if spacing ≤ 0 then pureStep (badArgument .spacing)
  else andThen (readVco id) fun vco => andThen (callEpdf id) fun epdf => fun s =>
    andThen (pureStep (computeSetting s.roundHalfUp freq spacing epdf (chooseDivider freq vco.low)))
      (fun raw => readModifyWrite id (setRawSetting raw)) s

/-- R216. -/
def callGetReference : Action Word := readRef

/-- R217. -/
def callSetReference (hz : Word) : Action Unit := writeRef hz

/-- R218. -/
def callGetRfLevel (id : ChannelId) : Action SWord := andThen (readRegs id) fun x => pureStep (getLevel x)

/-- R219: the level is checked before any exchange. -/
def callSetRfLevel (id : ChannelId) (level : SWord) : Action Unit :=
  andThen (pureStep (encodeRfLevel level)) fun _ => readModifyWrite id fun x => setLevel x level

/-- R220. -/
def callGetOptions (id : ChannelId) : Action Options := andThen (readRegs id) fun x => pureStep (getOptionsOf x)

/-- R221: `r` is checked before any exchange. -/
def callSetOptions (id : ChannelId) (o : Options) : Action Unit :=
  if 1024 ≤ o.r.toNat then pureStep (badArgument (.field .r)) else readModifyWrite id fun x => setOptionsOf x o

/-- R222: the status is read at 0x86, the address of channel A. -/
def callGetRefSelect : Action Bool := andThen (readStatus .a) fun st => pureStep (.ok (externalReference st))

/-- R223. -/
def callSetRefSelect (v : Bool) : Action Unit := writeRefsel v

/-- R224. -/
def callGetVcoRange (id : ChannelId) : Action VcoRange := readVco id

/-- R225: a direct write, not a read-modify-write. -/
def callSetVcoRange (id : ChannelId) (v : VcoRange) : Action Unit := writeVco id v

/-- R226. -/
def callGetPhaseLock (id : ChannelId) : Action Bool := andThen (readStatus id) fun st => pureStep (.ok (phaseLocked id st))

/-- R227. -/
def callGetLabel (id : ChannelId) : Action Bytes := readLabel id

/-- R228: any length, fitted to 16 bytes. -/
def callSetLabel (id : ChannelId) (label : Bytes) : Action Unit := writeLabel id (fitLabel label)

/-- R229. -/
def callFlash : Action Unit := sendFlash

/-- The controller functions (R77); every one of them returns a value or an error (C7). -/
def runCall : Call → Action Value
  | .getFrequency id => asValue .frequency (callGetFrequency id)
  | .setFrequency id freq spacing => asValue (fun _ => .none) (callSetFrequency id freq spacing)
  | .getReference => asValue .word callGetReference
  | .setReference hz => asValue (fun _ => .none) (callSetReference hz)
  | .getRfLevel id => asValue .level (callGetRfLevel id)
  | .setRfLevel id level => asValue (fun _ => .none) (callSetRfLevel id level)
  | .getOptions id => asValue .options (callGetOptions id)
  | .setOptions id o => asValue (fun _ => .none) (callSetOptions id o)
  | .getRefSelect => asValue .bool callGetRefSelect
  | .setRefSelect v => asValue (fun _ => .none) (callSetRefSelect v)
  | .getVcoRange id => asValue .vco (callGetVcoRange id)
  | .setVcoRange id v => asValue (fun _ => .none) (callSetVcoRange id v)
  | .getPhaseLock id => asValue .bool (callGetPhaseLock id)
  | .getLabel id => asValue .bytes (callGetLabel id)
  | .setLabel id label => asValue (fun _ => .none) (callSetLabel id label)
  | .flash => asValue (fun _ => .none) callFlash

end Sys2Proof.Machine
end

