-- ==== Sys2Proof/Machine/Dispatch.lean ====
section
/-!
DEFINITION. What each instruction does: one arm per constructor of Instr, each the call of its meaning.
-/

namespace Sys2Proof.Machine

open Sys2Proof

def exec (i : Instr) (s : State) : Host.Outcome State Fault Refusal :=
  match i with
  | .cksum b => Sys2Proof.Machine.execCksum b s
  | .ckverify b expected => Sys2Proof.Machine.execCkverify b expected s
  | .framew address payload => Sys2Proof.Machine.execFramew address payload s
  | .framer address => Sys2Proof.Machine.execFramer address s
  | .ackchk rx => Sys2Proof.Machine.execAckchk rx s
  | .respchk rx expectedLen => Sys2Proof.Machine.execRespchk rx expectedLen s
  | .mkaddr cmd id => Sys2Proof.Machine.execMkaddr cmd id s
  | .xwrite address payload => Sys2Proof.Machine.execXwrite address payload s
  | .xread address expectedLen => Sys2Proof.Machine.execXread address expectedLen s
  | .packu32 v => Sys2Proof.Machine.execPacku32 v s
  | .unpacku32 b => Sys2Proof.Machine.execUnpacku32 b s
  | .packu16 v => Sys2Proof.Machine.execPacku16 v s
  | .unpacku16 b => Sys2Proof.Machine.execUnpacku16 b s
  | .packbool v => Sys2Proof.Machine.execPackbool v s
  | .labelfit l => Sys2Proof.Machine.execLabelfit l s
  | .packvco low high => Sys2Proof.Machine.execPackvco low high s
  | .unpackvco b => Sys2Proof.Machine.execUnpackvco b s
  | .stphase id status => Sys2Proof.Machine.execStphase id status s
  | .strefsel status => Sys2Proof.Machine.execStrefsel status s
  | .unpackr0 w => Sys2Proof.Machine.execUnpackr0 w s
  | .unpackr1 w => Sys2Proof.Machine.execUnpackr1 w s
  | .unpackr2 w => Sys2Proof.Machine.execUnpackr2 w s
  | .unpackr3 w => Sys2Proof.Machine.execUnpackr3 w s
  | .unpackr4 w => Sys2Proof.Machine.execUnpackr4 w s
  | .unpackr5 w => Sys2Proof.Machine.execUnpackr5 w s
  | .fget w off width => Sys2Proof.Machine.execFget w off width s
  | .fset w off width v => Sys2Proof.Machine.execFset w off width v s
  | .packr0 u => Sys2Proof.Machine.execPackr0 u s
  | .packr1 u => Sys2Proof.Machine.execPackr1 u s
  | .packr2 u => Sys2Proof.Machine.execPackr2 u s
  | .packr3 u => Sys2Proof.Machine.execPackr3 u s
  | .packr4 u => Sys2Proof.Machine.execPackr4 u s
  | .packr5 u => Sys2Proof.Machine.execPackr5 u s
  | .unpackblk b => Sys2Proof.Machine.execUnpackblk b s
  | .packblk x => Sys2Proof.Machine.execPackblk x s
  | .dbfenc dbf => Sys2Proof.Machine.execDbfenc dbf s
  | .dbfdec code => Sys2Proof.Machine.execDbfdec code s
  | .rflenc level => Sys2Proof.Machine.execRflenc level s
  | .rfldec code => Sys2Proof.Machine.execRfldec code s
  | .lspenc v => Sys2Proof.Machine.execLspenc v s
  | .lspdec raw => Sys2Proof.Machine.execLspdec raw s
  | .getfs x => Sys2Proof.Machine.execGetfs x s
  | .setfs x fs => Sys2Proof.Machine.execSetfs x fs s
  | .getopt x => Sys2Proof.Machine.execGetopt x s
  | .setopt x o => Sys2Proof.Machine.execSetopt x o s
  | .getrfl x => Sys2Proof.Machine.execGetrfl x s
  | .setrfl x level => Sys2Proof.Machine.execSetrfl x level s
  | .gcd a b => Sys2Proof.Machine.execGcd a b s
  | .reduce frac mod => Sys2Proof.Machine.execReduce frac mod s
  | .getRegs id => Sys2Proof.Machine.execGetRegs id s
  | .setRegs id x => Sys2Proof.Machine.execSetRegs id x s
  | .getLabel id => Sys2Proof.Machine.execGetLabel id s
  | .setLabel id l => Sys2Proof.Machine.execSetLabel id l s
  | .getVco id => Sys2Proof.Machine.execGetVco id s
  | .setVco id low high => Sys2Proof.Machine.execSetVco id low high s
  | .getRef => Sys2Proof.Machine.execGetRef s
  | .setRef hz => Sys2Proof.Machine.execSetRef hz s
  | .getStatus id => Sys2Proof.Machine.execGetStatus id s
  | .setRefsel v => Sys2Proof.Machine.execSetRefsel v s
  | .flash => Sys2Proof.Machine.execFlash s

end Sys2Proof.Machine
end

