-- ==== Sys2Proof/WellFormed.lean ====
section
/-!
DEFINITION. Well-formed instructions: the terms a request can carry. The spec gives operands no encoding; the model's own
(log entry 2) counts a byte string and a `nat` in 32 bits, and a SET_LABEL payload has its 16 bytes (R66).
An ill-formed term still has a meaning under `exec`; it only has no request of its own.
-/

namespace Sys2Proof

/-- A byte string whose length the 32-bit length prefix of a request can say (log entry 2). -/
def wfBytes (b : Bytes) : Bool := b.length < 2 ^ 32

/-- A `nat` operand that fits the 32 bits a request gives it (log entry 2). -/
def wfNat (n : Nat) : Bool := n < 2 ^ 32

/-- Each operand lies in the range its encoding admits. -/
def Instr.wf : Instr → Bool
  | .cksum b => wfBytes b
  | .ckverify b _ => wfBytes b
  | .framew _ p => wfBytes p
  | .framer _ => true
  | .ackchk rx => wfBytes rx
  | .respchk rx n => wfBytes rx && wfNat n
  | .mkaddr _ _ => true
  | .xwrite _ p => wfBytes p
  | .xread _ n => wfNat n
  | .packu32 _ => true
  | .unpacku32 b => wfBytes b
  | .packu16 _ => true
  | .unpacku16 b => wfBytes b
  | .packbool _ => true
  | .labelfit l => wfBytes l
  | .packvco _ _ => true
  | .unpackvco b => wfBytes b
  | .stphase _ _ => true
  | .strefsel _ => true
  | .unpackr0 _ => true
  | .unpackr1 _ => true
  | .unpackr2 _ => true
  | .unpackr3 _ => true
  | .unpackr4 _ => true
  | .unpackr5 _ => true
  | .fget _ off width => wfNat off && wfNat width
  | .fset _ off width _ => wfNat off && wfNat width
  | .packr0 _ => true
  | .packr1 _ => true
  | .packr2 _ => true
  | .packr3 _ => true
  | .packr4 _ => true
  | .packr5 _ => true
  | .unpackblk b => wfBytes b
  | .packblk _ => true
  | .dbfenc _ => true
  | .dbfdec _ => true
  | .rflenc _ => true
  | .rfldec _ => true
  | .lspenc _ => true
  | .lspdec _ => true
  | .getfs _ => true
  | .setfs _ _ => true
  | .getopt _ => true
  | .setopt _ _ => true
  | .getrfl _ => true
  | .setrfl _ _ => true
  | .gcd _ _ => true
  | .reduce _ _ => true
  | .getRegs _ => true
  | .setRegs _ _ => true
  | .getLabel _ => true
  | .setLabel _ l => l.length == 16
  | .getVco _ => true
  | .setVco _ _ _ => true
  | .getRef => true
  | .setRef _ => true
  | .getStatus _ => true
  | .setRefsel _ => true
  | .flash => true

end Sys2Proof
end

