-- ==== Sys2Proof/Decode.lean ====
section
/-!
DEFINITION. The request decoder and its inverse. A request stands in one of the two spaces of spec/30_encoding.md: an op
select byte with operands (R75), or a command address byte with the payload of R67. The decoder is total on any bytes and
rejects by name; the encoder writes the request of a well-formed instruction.
-/

namespace Sys2Proof

open Sys2Proof.Machine

/-- Why a byte string is no request. -/
inductive DecodeError where
  /-- No bytes at all. -/
  | empty
  /-- An op select value that names no operation (R75, R73). -/
  | unassignedOp (op : Byte)
  /-- The first byte is no 6-bit op select, or its operand bytes are not the operation's operands: no request of the spec. -/
  | malformedOperands (op : Byte)
  /-- An address byte outside the eighteen of R66 (R73: "cannot be formed"). -/
  | unlistedAddress (address : Byte)
  /-- A listed address whose payload is not the command's: it has not the command's length (R43), or SET_REFSEL's byte is
  neither 0x00 nor 0x01 (R67, R73). -/
  | badPayload (address : Byte)
deriving DecidableEq, Repr

/-- A parser of the operands that follow an op select byte. -/
abbrev OperandParser := Bytes → Option (Instr × Bytes)

/-- The op select table of R75: the operands of each operation, none for the values that name no operation. -/
def opOperands (op : Nat) : Option OperandParser :=
  match op with
  | 0x00 => some fun t => takeThen (takeBytes t) fun b t => some (.cksum b, t)
  | 0x01 => some fun t => takeThen (takeBytes t) fun b t => takeThen (takeU8 t) fun e t => some (.ckverify b e, t)
  | 0x02 => some fun t => takeThen (takeU8 t) fun a t => takeThen (takeBytes t) fun p t => some (.framew a p, t)
  | 0x03 => some fun t => takeThen (takeU8 t) fun a t => some (.framer a, t)
  | 0x04 => some fun t => takeThen (takeBytes t) fun rx t => some (.ackchk rx, t)
  | 0x05 => some fun t => takeThen (takeBytes t) fun rx t => takeThen (takeNat t) fun n t => some (.respchk rx n, t)
  | 0x06 => some fun t => takeThen (takeCommand t) fun c t => takeThen (takeOptId t) fun id t =>
      some (.mkaddr c id, t)
  | 0x07 => some fun t => takeThen (takeU8 t) fun a t => takeThen (takeBytes t) fun p t => some (.xwrite a p, t)
  | 0x08 => some fun t => takeThen (takeU8 t) fun a t => takeThen (takeNat t) fun n t => some (.xread a n, t)
  | 0x10 => some fun t => takeThen (takeU32 t) fun v t => some (.packu32 v, t)
  | 0x11 => some fun t => takeThen (takeBytes t) fun b t => some (.unpacku32 b, t)
  | 0x12 => some fun t => takeThen (takeU16 t) fun v t => some (.packu16 v, t)
  | 0x13 => some fun t => takeThen (takeBytes t) fun b t => some (.unpacku16 b, t)
  | 0x14 => some fun t => takeThen (takeBool t) fun v t => some (.packbool v, t)
  | 0x15 => some fun t => takeThen (takeBytes t) fun l t => some (.labelfit l, t)
  | 0x16 => some fun t => takeThen (takeU16 t) fun l t => takeThen (takeU16 t) fun h t => some (.packvco l h, t)
  | 0x17 => some fun t => takeThen (takeBytes t) fun b t => some (.unpackvco b, t)
  | 0x18 => some fun t => takeThen (takeId t) fun id t => takeThen (takeU8 t) fun s t => some (.stphase id s, t)
  | 0x19 => some fun t => takeThen (takeU8 t) fun s t => some (.strefsel s, t)
  | 0x20 => some fun t => takeThen (takeU32 t) fun w t => some (.unpackr0 w, t)
  | 0x21 => some fun t => takeThen (takeU32 t) fun w t => some (.unpackr1 w, t)
  | 0x22 => some fun t => takeThen (takeU32 t) fun w t => some (.unpackr2 w, t)
  | 0x23 => some fun t => takeThen (takeU32 t) fun w t => some (.unpackr3 w, t)
  | 0x24 => some fun t => takeThen (takeU32 t) fun w t => some (.unpackr4 w, t)
  | 0x25 => some fun t => takeThen (takeU32 t) fun w t => some (.unpackr5 w, t)
  | 0x26 => some fun t => takeThen (takeU32 t) fun w t => takeThen (takeNat t) fun o t =>
      takeThen (takeNat t) fun n t => some (.fget w o n, t)
  | 0x27 => some fun t => takeThen (takeU32 t) fun w t => takeThen (takeNat t) fun o t =>
      takeThen (takeNat t) fun n t => takeThen (takeU32 t) fun v t => some (.fset w o n v, t)
  | 0x28 => some fun t => takeThen (takeU32 t) fun control t => takeThen (takeU32 t) fun frac t =>
      takeThen (takeU32 t) fun ncount t => takeThen (takeU32 t) fun rsvd t =>
      some (.packr0 ⟨control, frac, ncount, rsvd⟩, t)
  | 0x29 => some fun t => takeThen (takeU32 t) fun control t => takeThen (takeU32 t) fun mod t =>
      takeThen (takeU32 t) fun phase t => takeThen (takeU32 t) fun prescaler t => takeThen (takeU32 t) fun rsvd t =>
      some (.packr1 ⟨control, mod, phase, prescaler, rsvd⟩, t)
  | 0x2A => some fun t => takeThen (takeU32 t) fun control t => takeThen (takeU32 t) fun counterReset t =>
      takeThen (takeU32 t) fun cpThreeState t => takeThen (takeU32 t) fun pd t =>
      takeThen (takeU32 t) fun pdPolarity t => takeThen (takeU32 t) fun ldp t => takeThen (takeU32 t) fun ldf t =>
      takeThen (takeU32 t) fun chargePump t => takeThen (takeU32 t) fun doubleBuffer t =>
      takeThen (takeU32 t) fun r t => takeThen (takeU32 t) fun halfR t => takeThen (takeU32 t) fun doubleR t =>
      takeThen (takeU32 t) fun muxout t => takeThen (takeU32 t) fun lowSpur t => takeThen (takeU32 t) fun rsvd t =>
      some (.packr2 ⟨control, counterReset, cpThreeState, pd, pdPolarity, ldp, ldf, chargePump, doubleBuffer,
        r, halfR, doubleR, muxout, lowSpur, rsvd⟩, t)
  | 0x2B => some fun t => takeThen (takeU32 t) fun control t => takeThen (takeU32 t) fun clockDiv t =>
      takeThen (takeU32 t) fun clockDivMode t => takeThen (takeU32 t) fun csr t => takeThen (takeU32 t) fun rsvd t =>
      some (.packr3 ⟨control, clockDiv, clockDivMode, csr, rsvd⟩, t)
  | 0x2C => some fun t => takeThen (takeU32 t) fun control t => takeThen (takeU32 t) fun outputPower t =>
      takeThen (takeU32 t) fun rfOutputEnable t => takeThen (takeU32 t) fun auxOutputPower t =>
      takeThen (takeU32 t) fun auxOutputEnable t => takeThen (takeU32 t) fun auxOutputSelect t =>
      takeThen (takeU32 t) fun mtld t => takeThen (takeU32 t) fun vcoPowerDown t =>
      takeThen (takeU32 t) fun bandSelectClockDiv t => takeThen (takeU32 t) fun dividerSelect t =>
      takeThen (takeU32 t) fun feedbackSelect t => takeThen (takeU32 t) fun rsvd t =>
      some (.packr4 ⟨control, outputPower, rfOutputEnable, auxOutputPower, auxOutputEnable,
        auxOutputSelect, mtld, vcoPowerDown, bandSelectClockDiv, dividerSelect, feedbackSelect, rsvd⟩, t)
  | 0x2D => some fun t => takeThen (takeU32 t) fun control t => takeThen (takeU32 t) fun ldPinMode t =>
      takeThen (takeU32 t) fun rsvd t => some (.packr5 ⟨control, ldPinMode, rsvd⟩, t)
  | 0x2E => some fun t => takeThen (takeBytes t) fun b t => some (.unpackblk b, t)
  | 0x2F => some fun t => takeThen (takeRegBlock t) fun x t => some (.packblk x, t)
  | 0x30 => some fun t => takeThen (takeU32 t) fun d t => some (.dbfenc d, t)
  | 0x31 => some fun t => takeThen (takeU32 t) fun c t => some (.dbfdec c, t)
  | 0x32 => some fun t => takeThen (takeU32 t) fun l t => some (.rflenc l, t)
  | 0x33 => some fun t => takeThen (takeU32 t) fun c t => some (.rfldec c, t)
  | 0x34 => some fun t => takeThen (takeBool t) fun v t => some (.lspenc v, t)
  | 0x35 => some fun t => takeThen (takeU32 t) fun r t => some (.lspdec r, t)
  | 0x36 => some fun t => takeThen (takeRegBlock t) fun x t => some (.getfs x, t)
  | 0x37 => some fun t => takeThen (takeRegBlock t) fun x t => takeThen (takeU32 t) fun ncount t =>
      takeThen (takeU32 t) fun frac t => takeThen (takeU32 t) fun mod t => takeThen (takeU32 t) fun dbf t =>
      some (.setfs x ⟨ncount, frac, mod, dbf⟩, t)
  | 0x38 => some fun t => takeThen (takeRegBlock t) fun x t => some (.getopt x, t)
  | 0x39 => some fun t => takeThen (takeRegBlock t) fun x t => takeThen (takeBool t) fun doubleRef t =>
      takeThen (takeBool t) fun halfRef t => takeThen (takeU32 t) fun r t => takeThen (takeBool t) fun lowSpur t =>
      some (.setopt x ⟨doubleRef, halfRef, r, lowSpur⟩, t)
  | 0x3A => some fun t => takeThen (takeRegBlock t) fun x t => some (.getrfl x, t)
  | 0x3B => some fun t => takeThen (takeRegBlock t) fun x t => takeThen (takeU32 t) fun l t => some (.setrfl x l, t)
  | 0x3C => some fun t => takeThen (takeU32 t) fun a t => takeThen (takeU32 t) fun b t => some (.gcd a b, t)
  | 0x3D => some fun t => takeThen (takeU32 t) fun f t => takeThen (takeU32 t) fun m t => some (.reduce f m, t)
  | _ => none

/-- The payload of a wire command (R67), read as the command's operands. -/
def commandOperands (id : ChannelId) : Command → OperandParser
  | .getRegs => fun t => some (.getRegs id, t)
  | .setRegs => fun t => takeThen (takeRegBlock t) fun x t => some (.setRegs id x, t)
  | .getLabel => fun t => some (.getLabel id, t)
  | .setLabel => fun t => takeThen (takeExact 16 t) fun l t => some (.setLabel id l, t)
  | .getVco => fun t => some (.getVco id, t)
  | .setVco => fun t => takeThen (takeU16 t) fun l t => takeThen (takeU16 t) fun h t => some (.setVco id l h, t)
  | .getRef => fun t => some (.getRef, t)
  | .setRef => fun t => takeThen (takeU32 t) fun hz t => some (.setRef hz, t)
  | .getStatus => fun t => some (.getStatus id, t)
  | .setRefsel => fun t => takeThen (takeBool t) fun v t => some (.setRefsel v, t)
  | .flash => fun t => some (.flash, t)

/-- Read one instruction of a space off the front of some bytes. -/
def parse : Space → Bytes → Except DecodeError (Instr × Bytes)
  | _, [] => .error .empty
  | .op, op :: t =>
    if 64 ≤ op.toNat then .error (.malformedOperands op)
    else match opOperands op.toNat with
      | none => .error (.unassignedOp op)
      | some p => match p t with
        | none => .error (.malformedOperands op)
        | some r => .ok r
  | .command, a :: t =>
    match commandAt a with
    | none => .error (.unlistedAddress a)
    | some (c, id) => match commandOperands id c t with
      | none => .error (.badPayload a)
      | some r => .ok r

/-- What bytes left over after the operands mean: a payload too long for the command (R43), or operand bytes too many. -/
def leftOver (sp : Space) (first : Byte) : DecodeError :=
  match sp with
  | .op => .malformedOperands first
  | .command => .badPayload first

/-- The request decoder: the whole byte string is one instruction. -/
def decode (sp : Space) (bs : Bytes) : Except DecodeError Instr :=
  match parse sp bs with
  | .error e => .error e
  | .ok (i, []) => .ok i
  | .ok (_, _ :: _) => .error (leftOver sp (bs.headD 0))

/-- The request of an instruction: its op select byte (R75) or address byte (R66), then its operands. -/
def encode : Instr → Bytes
  | .cksum b => 0x00 :: putBytes b
  | .ckverify b e => 0x01 :: (putBytes b ++ [e])
  | .framew a p => 0x02 :: a :: putBytes p
  | .framer a => [0x03, a]
  | .ackchk rx => 0x04 :: putBytes rx
  | .respchk rx n => 0x05 :: (putBytes rx ++ putNat n)
  | .mkaddr c id => 0x06 :: (putCommand c ++ putOptId id)
  | .xwrite a p => 0x07 :: a :: putBytes p
  | .xread a n => 0x08 :: a :: putNat n
  | .packu32 v => 0x10 :: packU32 v
  | .unpacku32 b => 0x11 :: putBytes b
  | .packu16 v => 0x12 :: packU16 v
  | .unpacku16 b => 0x13 :: putBytes b
  | .packbool v => 0x14 :: putBool v
  | .labelfit l => 0x15 :: putBytes l
  | .packvco l h => 0x16 :: (packU16 l ++ packU16 h)
  | .unpackvco b => 0x17 :: putBytes b
  | .stphase id s => 0x18 :: (putId id ++ [s])
  | .strefsel s => [0x19, s]
  | .unpackr0 w => 0x20 :: packU32 w
  | .unpackr1 w => 0x21 :: packU32 w
  | .unpackr2 w => 0x22 :: packU32 w
  | .unpackr3 w => 0x23 :: packU32 w
  | .unpackr4 w => 0x24 :: packU32 w
  | .unpackr5 w => 0x25 :: packU32 w
  | .fget w o n => 0x26 :: (packU32 w ++ (putNat o ++ putNat n))
  | .fset w o n v => 0x27 :: (packU32 w ++ (putNat o ++ (putNat n ++ packU32 v)))
  | .packr0 u => 0x28 :: putWords [u.control, u.frac, u.ncount, u.rsvd]
  | .packr1 u => 0x29 :: putWords [u.control, u.mod, u.phase, u.prescaler, u.rsvd]
  | .packr2 u => 0x2A :: putWords [u.control, u.counterReset, u.cpThreeState, u.pd, u.pdPolarity, u.ldp, u.ldf,
      u.chargePump, u.doubleBuffer, u.r, u.halfR, u.doubleR, u.muxout, u.lowSpur, u.rsvd]
  | .packr3 u => 0x2B :: putWords [u.control, u.clockDiv, u.clockDivMode, u.csr, u.rsvd]
  | .packr4 u => 0x2C :: putWords [u.control, u.outputPower, u.rfOutputEnable, u.auxOutputPower, u.auxOutputEnable,
      u.auxOutputSelect, u.mtld, u.vcoPowerDown, u.bandSelectClockDiv, u.dividerSelect, u.feedbackSelect, u.rsvd]
  | .packr5 u => 0x2D :: putWords [u.control, u.ldPinMode, u.rsvd]
  | .unpackblk b => 0x2E :: putBytes b
  | .packblk x => 0x2F :: putRegBlock x
  | .dbfenc d => 0x30 :: packU32 d
  | .dbfdec c => 0x31 :: packU32 c
  | .rflenc l => 0x32 :: packU32 l
  | .rfldec c => 0x33 :: packU32 c
  | .lspenc v => 0x34 :: putBool v
  | .lspdec r => 0x35 :: packU32 r
  | .getfs x => 0x36 :: putRegBlock x
  | .setfs x fs => 0x37 :: (putRegBlock x ++ putWords [fs.ncount, fs.frac, fs.mod, fs.dbf])
  | .getopt x => 0x38 :: putRegBlock x
  | .setopt x o => 0x39 :: (putRegBlock x ++ (putBool o.doubleRef ++ (putBool o.halfRef ++
      (packU32 o.r ++ putBool o.lowSpur))))
  | .getrfl x => 0x3A :: putRegBlock x
  | .setrfl x l => 0x3B :: (putRegBlock x ++ packU32 l)
  | .gcd a b => 0x3C :: (packU32 a ++ packU32 b)
  | .reduce f m => 0x3D :: (packU32 f ++ packU32 m)
  | .getRegs id => [addressOf .getRegs id]
  | .setRegs id x => addressOf .setRegs id :: putRegBlock x
  | .getLabel id => [addressOf .getLabel id]
  | .setLabel id l => addressOf .setLabel id :: l
  | .getVco id => [addressOf .getVco id]
  | .setVco id l h => addressOf .setVco id :: (packU16 l ++ packU16 h)
  | .getRef => [baseAddress .getRef]
  | .setRef hz => baseAddress .setRef :: packU32 hz
  | .getStatus id => [addressOf .getStatus id]
  | .setRefsel v => baseAddress .setRefsel :: putBool v
  | .flash => [baseAddress .flash]

/-! ## The opcode table's own numbering -/

/-- The bytes of a table word: bit 0 is the least significant bit of the first byte. -/
def tableBytes (nbits w : Nat) : Bytes :=
  (List.range ((nbits + 7) / 8)).map fun k => BitVec.ofNat 8 (w / 2 ^ (8 * k))

/-- The space of a table word (log entry 3): the table numbers both spaces from 0, so a byte that is an assigned op select is
read as one, and any other as a command address. -/
def tableSpace (nbits w : Nat) : Space :=
  match tableBytes nbits w with
  | [] => .op
  | b :: _ => if (opOperands b.toNat).isSome then .op else .command

/-- The operand bytes above a table word: zeros, as many as the longest request of zero operands has. -/
def zeroOperands : Bytes := List.replicate 64 0

/-- The instruction the decoder reads from a table word and operand bytes of zeros. -/
def decodeTableWord (nbits w : Nat) : Option Instr :=
  match parse (tableSpace nbits w) (tableBytes nbits w ++ zeroOperands) with
  | .ok (i, _) => some i
  | .error _ => none

/-- The request of a table word: its bytes and just the operand bytes of zeros that its instruction has. -/
def tableRequest (nbits w : Nat) : Bytes :=
  let padded := tableBytes nbits w ++ zeroOperands
  match parse (tableSpace nbits w) padded with
  | .ok (_, rest) => padded.take (padded.length - rest.length)
  | .error _ => tableBytes nbits w

end Sys2Proof
end

