-- ==== Sys2Proof/Machine/Request.lean ====
section
/-!
DEFINITION. Presenting the host's next request to the block (spec/00_scope.md R8), and the requests that are no instruction.
-/

namespace Sys2Proof.Machine

/-- The host presents its oldest request: it is no longer to come. -/
def State.present (s : State) (rest : List Request) : State := { s with requests := rest }

/-- With no request to present the block waits, and nothing changes (R270, R280; log entry 5). -/
def idle (s : State) : Host.Outcome State Fault Refusal := .next s

/-- What a request that decodes to no instruction does: an op select that names no operation (R75) and a command payload of the wrong
length (R43) are answered InvalidArgument, with nothing done; an unlisted address cannot be formed (R73); other bytes are no
request (log entry 2). -/
def rejectRequest (bytes : Bytes) (e : DecodeError) (s : State) : Host.Outcome State Fault Refusal :=
  match e with
  | .unassignedOp _ => give (badArgument .opSelect) s
  | .badPayload _ => give (badArgument .length) s
  | .unlistedAddress a => .refused (.unlistedAddress a)
  | .malformedOperands _ => .refused (.malformedRequest bytes)
  | .empty => .refused (.malformedRequest bytes)

/-- The host asks for one more request before those it already means to make. -/
def State.pushRequest (s : State) (r : Request) : State := { s with requests := r :: s.requests }

end Sys2Proof.Machine
end

