-- ==== Sys2Proof/Machine/Step.lean ====
section
/-!
DEFINITION. One step: the host presents its oldest request and the block (or the host's own controller function, R77) runs it to
its response (spec/00_scope.md R8, spec/20_memory.md R48; log entries 5 and 15).
-/

namespace Sys2Proof.Machine

open Sys2Proof

/-- One request, from its presentation to its response. -/
def step (s : State) : Host.Outcome State Fault Refusal :=
  match s.requests with
  | [] => idle s
  | .call c :: rest => answer (runCall c (s.present rest))
  | .encoded space bytes :: rest =>
    match decode space bytes with
    | .ok i => exec i (s.present rest)
    | .error e => rejectRequest bytes e (s.present rest)

/-- `s` with the request of a table word as the one the host presents next (log entry 5). -/
def State.withFetchWord (s : State) (nbits w : Nat) : State :=
  s.pushRequest (.encoded (tableSpace nbits w) (tableRequest nbits w))

end Sys2Proof.Machine
end

