-- ==== Sys2Proof/Laws/Operands.lean ====
section
/-!
SUPPORT. Each operand form reads back what was written, whatever bytes follow it; and the big-endian integers are inverse to
their bytes.
-/

namespace Sys2Proof.Machine

theorem extract_toNat {w : Nat} (v : BitVec w) (k : Nat) : (v.extractLsb' k 8).toNat = v.toNat / 2 ^ k % 256 := by
  simp [BitVec.extractLsb'_toNat, Nat.shiftRight_eq_div_pow]

theorem joinU32_packU32 (v : Word) :
    joinU32 (v.extractLsb' 24 8) (v.extractLsb' 16 8) (v.extractLsb' 8 8) (v.extractLsb' 0 8) = v := by
  apply BitVec.eq_of_toNat_eq
  simp only [joinU32, extract_toNat, BitVec.toNat_ofNat]
  omega

theorem joinU16_packU16 (v : Half) : joinU16 (v.extractLsb' 8 8) (v.extractLsb' 0 8) = v := by
  apply BitVec.eq_of_toNat_eq
  simp only [joinU16, extract_toNat, BitVec.toNat_ofNat]
  omega

theorem packU32_joinU32 (b0 b1 b2 b3 : Byte) : packU32 (joinU32 b0 b1 b2 b3) = [b0, b1, b2, b3] := by
  simp only [packU32, List.cons.injEq, and_true]
  refine ⟨?_, ?_, ?_, ?_⟩ <;> apply BitVec.eq_of_toNat_eq <;>
    simp only [joinU32, extract_toNat, BitVec.toNat_ofNat] <;> omega

theorem packU16_joinU16 (b0 b1 : Byte) : packU16 (joinU16 b0 b1) = [b0, b1] := by
  simp only [packU16, List.cons.injEq, and_true]
  refine ⟨?_, ?_⟩ <;> apply BitVec.eq_of_toNat_eq <;>
    simp only [joinU16, extract_toNat, BitVec.toNat_ofNat] <;> omega

theorem takeThen_some {α β : Type} (a : α) (t : Bytes) (f : α → Bytes → Option β) :
    takeThen (some (a, t)) f = f a t := by simp [takeThen]

theorem takeU8_cons (b : Byte) (t : Bytes) : takeU8 (b :: t) = some (b, t) := by simp [takeU8]

@[simp] theorem packU32_length (v : Word) : (packU32 v).length = 4 := rfl
@[simp] theorem packU16_length (v : Half) : (packU16 v).length = 2 := rfl
@[simp] theorem putRegBlock_length (x : RegBlock) : (putRegBlock x).length = 24 := rfl

@[simp] theorem takeU32_packU32 (v : Word) (t : Bytes) : takeU32 (packU32 v ++ t) = some (v, t) := by
  simp [packU32, takeU32, joinU32_packU32]

@[simp] theorem takeU16_packU16 (v : Half) (t : Bytes) : takeU16 (packU16 v ++ t) = some (v, t) := by
  simp [packU16, takeU16, joinU16_packU16]

@[simp] theorem takeU32_packU32_nil (v : Word) : takeU32 (packU32 v) = some (v, []) := by
  simpa using takeU32_packU32 v []

@[simp] theorem takeU16_packU16_nil (v : Half) : takeU16 (packU16 v) = some (v, []) := by
  simpa using takeU16_packU16 v []

theorem takeNat_putNat (n : Nat) (t : Bytes) (h : wfNat n = true) : takeNat (putNat n ++ t) = some (n, t) := by
  have hn : n < 4294967296 := by simpa [wfNat] using h
  simp only [takeNat, putNat, takeU32_packU32, takeThen_some]
  simpa using hn

theorem takeNat_putNat_nil (n : Nat) (h : wfNat n = true) : takeNat (putNat n) = some (n, []) := by
  simpa using takeNat_putNat n [] h

theorem takeExact_append (b t : Bytes) : takeExact b.length (b ++ t) = some (b, t) := by
  simp [takeExact]

theorem takeBytes_putBytes (b t : Bytes) (h : wfBytes b = true) : takeBytes (putBytes b ++ t) = some (b, t) := by
  simp only [takeBytes, putBytes, List.append_assoc]
  rw [takeNat_putNat _ _ (by simpa [wfNat, wfBytes] using h), takeThen_some, takeExact_append]

theorem takeBytes_putBytes_nil (b : Bytes) (h : wfBytes b = true) : takeBytes (putBytes b) = some (b, []) := by
  simpa using takeBytes_putBytes b [] h

@[simp] theorem takeBool_putBool (v : Bool) (t : Bytes) : takeBool (putBool v ++ t) = some (v, t) := by
  cases v <;> simp [putBool, takeBool]

@[simp] theorem takeBool_putBool_nil (v : Bool) : takeBool (putBool v) = some (v, []) := by
  simpa using takeBool_putBool v []

@[simp] theorem takeId_putId (id : ChannelId) (t : Bytes) : takeId (putId id ++ t) = some (id, t) := by
  cases id <;> simp [putId, takeId, idval]

@[simp] theorem takeOptId_putOptId (id : Option ChannelId) (t : Bytes) :
    takeOptId (putOptId id ++ t) = some (id, t) := by
  rcases id with _ | (_ | _) <;> simp [putOptId, takeOptId, idval]

@[simp] theorem takeOptId_putOptId_nil (id : Option ChannelId) : takeOptId (putOptId id) = some (id, []) := by
  simpa using takeOptId_putOptId id []

@[simp] theorem takeCommand_putCommand (c : Command) (t : Bytes) : takeCommand (putCommand c ++ t) = some (c, t) := by
  cases c <;> rfl

@[simp] theorem takeRegBlock_putRegBlock (x : RegBlock) (t : Bytes) :
    takeRegBlock (putRegBlock x ++ t) = some (x, t) := by
  simp only [takeRegBlock, putRegBlock, List.append_assoc, takeU32_packU32, takeThen_some]

@[simp] theorem takeRegBlock_putRegBlock_nil (x : RegBlock) : takeRegBlock (putRegBlock x) = some (x, []) := by
  simpa using takeRegBlock_putRegBlock x []

theorem commandAt_addressOf (c : Command) (id : ChannelId) (h : perChannel c = true) :
    commandAt (addressOf c id) = some (c, id) := by
  cases c <;> cases id <;> first | rfl | exact absurd h (by decide)

theorem commandAt_baseAddress (c : Command) : commandAt (baseAddress c) = some (c, .a) := by
  cases c <;> rfl

theorem addressOf_shared (c : Command) (id : ChannelId) (h : perChannel c = false) : addressOf c id = baseAddress c := by
  simp [addressOf, h]

/-! ## What a reader can have read: the operand it answers, and the bytes it took -/

theorem takeThen_eq_some {α β : Type} (x : Option (α × Bytes)) (f : α → Bytes → Option β) (r : β) :
    takeThen x f = some r ↔ ∃ a t, x = some (a, t) ∧ f a t = some r := by
  rcases x with _ | ⟨a, t⟩ <;> simp [takeThen]

theorem takeU8_eq_some (t : Bytes) (v : Byte) (t' : Bytes) : takeU8 t = some (v, t') ↔ t = v :: t' := by
  cases t <;> simp [takeU8]

theorem takeU32_eq_some (t : Bytes) (v : Word) (t' : Bytes) : takeU32 t = some (v, t') ↔ t = packU32 v ++ t' := by
  refine ⟨fun h => ?_, fun h => h ▸ takeU32_packU32 v t'⟩
  match t, h with
  | b0 :: b1 :: b2 :: b3 :: t, h =>
    simp only [takeU32, Option.some.injEq, Prod.mk.injEq] at h
    rw [← h.1, ← h.2, packU32_joinU32]
    rfl

theorem takeU16_eq_some (t : Bytes) (v : Half) (t' : Bytes) : takeU16 t = some (v, t') ↔ t = packU16 v ++ t' := by
  refine ⟨fun h => ?_, fun h => h ▸ takeU16_packU16 v t'⟩
  match t, h with
  | b0 :: b1 :: t, h =>
    simp only [takeU16, Option.some.injEq, Prod.mk.injEq] at h
    rw [← h.1, ← h.2, packU16_joinU16]
    rfl

theorem takeNat_eq_some (t : Bytes) (n : Nat) (t' : Bytes) :
    takeNat t = some (n, t') ↔ wfNat n = true ∧ t = putNat n ++ t' := by
  refine ⟨fun h => ?_, fun h => h.2 ▸ takeNat_putNat n t' h.1⟩
  simp only [takeNat, takeThen_eq_some, takeU32_eq_some] at h
  obtain ⟨v, t, rfl, h⟩ := h
  simp only [Option.some.injEq, Prod.mk.injEq] at h
  obtain ⟨rfl, rfl⟩ := h
  exact ⟨by simp [wfNat, v.isLt], by simp [putNat]⟩

theorem takeExact_eq_some (n : Nat) (t b t' : Bytes) : takeExact n t = some (b, t') ↔ b.length = n ∧ t = b ++ t' := by
  refine ⟨fun h => ?_, fun h => by obtain ⟨rfl, rfl⟩ := h; exact takeExact_append b t'⟩
  unfold takeExact at h
  split at h
  · simp only [Option.some.injEq, Prod.mk.injEq] at h
    obtain ⟨rfl, rfl⟩ := h
    simpa
  · simp at h

theorem takeBytes_eq_some (t b t' : Bytes) : takeBytes t = some (b, t') ↔ wfBytes b = true ∧ t = putBytes b ++ t' := by
  refine ⟨fun h => ?_, fun h => h.2 ▸ takeBytes_putBytes b t' h.1⟩
  simp only [takeBytes, takeThen_eq_some, takeNat_eq_some, takeExact_eq_some] at h
  obtain ⟨n, t, ⟨h1, rfl⟩, rfl, rfl⟩ := h
  exact ⟨h1, by simp [putBytes]⟩

theorem takeBool_eq_some (t : Bytes) (v : Bool) (t' : Bytes) : takeBool t = some (v, t') ↔ t = putBool v ++ t' := by
  refine ⟨fun h => ?_, fun h => h ▸ takeBool_putBool v t'⟩
  match t, h with
  | x :: t, h =>
    simp only [takeBool] at h
    split at h
    · simp at h; obtain ⟨rfl, rfl⟩ := h; subst_vars; rfl
    split at h
    · simp at h; obtain ⟨rfl, rfl⟩ := h; subst_vars; rfl
    · simp at h

theorem takeId_eq_some (t : Bytes) (id : ChannelId) (t' : Bytes) : takeId t = some (id, t') ↔ t = putId id ++ t' := by
  refine ⟨fun h => ?_, fun h => h ▸ takeId_putId id t'⟩
  match t, h with
  | x :: t, h =>
    simp only [takeId] at h
    split at h
    · simp at h; obtain ⟨rfl, rfl⟩ := h; subst_vars; rfl
    split at h
    · simp at h; obtain ⟨rfl, rfl⟩ := h; subst_vars; rfl
    · simp at h

theorem takeOptId_eq_some (t : Bytes) (id : Option ChannelId) (t' : Bytes) :
    takeOptId t = some (id, t') ↔ t = putOptId id ++ t' := by
  refine ⟨fun h => ?_, fun h => h ▸ takeOptId_putOptId id t'⟩
  match t, h with
  | x :: t, h =>
    simp only [takeOptId] at h
    split at h
    · simp at h; obtain ⟨rfl, rfl⟩ := h; subst_vars; rfl
    split at h
    · simp at h; obtain ⟨rfl, rfl⟩ := h; subst_vars; rfl
    split at h
    · simp at h; obtain ⟨rfl, rfl⟩ := h; subst_vars; rfl
    · simp at h

theorem takeCommand_eq_some (t : Bytes) (c : Command) (t' : Bytes) :
    takeCommand t = some (c, t') ↔ t = putCommand c ++ t' := by
  refine ⟨fun h => ?_, fun h => h ▸ takeCommand_putCommand c t'⟩
  match t, h with
  | x :: t, h =>
    simp only [takeCommand] at h
    split at h <;> simp at h <;> obtain ⟨rfl, rfl⟩ := h <;>
      (simp only [putCommand, List.cons_append, List.nil_append, List.cons.injEq, and_true]
       apply BitVec.eq_of_toNat_eq; assumption)

theorem takeRegBlock_eq_some (t : Bytes) (x : RegBlock) (t' : Bytes) :
    takeRegBlock t = some (x, t') ↔ t = putRegBlock x ++ t' := by
  refine ⟨fun h => ?_, fun h => h ▸ takeRegBlock_putRegBlock x t'⟩
  simp only [takeRegBlock, takeThen_eq_some, takeU32_eq_some] at h
  obtain ⟨r0, _, rfl, r1, _, rfl, r2, _, rfl, r3, _, rfl, r4, _, rfl, r5, _, rfl, h⟩ := h
  simp at h
  obtain ⟨rfl, rfl⟩ := h
  simp [putRegBlock]

end Sys2Proof.Machine
end

