-- ==== Sys2Proof/Laws/PerInstr.lean ====
section
/-!
SUPPORT. Statements about all instructions, one lemma per constructor. Family RoundTrip: the decoder reads back what the encoder wrote.
-/

namespace Sys2Proof.Laws.RoundTrip

open Sys2Proof Sys2Proof.Machine

/-- Decoding the request of a well-formed instruction gives the instruction. -/
def Statement (i : Instr) : Prop := i.wf = true → decode i.space (encode i) = .ok i

theorem decode_op {op : Byte} {t : Bytes} {p : OperandParser} {i : Instr} (h : op.toNat < 64)
    (hp : opOperands op.toNat = some p) (ht : p t = some (i, [])) : decode .op (op :: t) = .ok i := by
  simp [decode, parse, Nat.not_le.2 h, hp, ht]

theorem decode_command {a : Byte} {t : Bytes} {c : Command} {id : ChannelId} {i : Instr}
    (ha : commandAt a = some (c, id)) (ht : commandOperands id c t = some (i, [])) : decode .command (a :: t) = .ok i := by
  simp [decode, parse, ha, ht]

theorem cksum (b : Bytes) : Statement (.cksum b) := fun h =>
  decode_op (by decide) rfl (by simp only [takeThen_some, takeBytes_putBytes_nil _ h])

theorem ckverify (b : Bytes) (expected : Byte) : Statement (.ckverify b expected) := fun h =>
  decode_op (by decide) rfl (by simp only [takeThen_some, takeBytes_putBytes _ _ h, takeU8_cons])

theorem framew (address : Byte) (payload : Bytes) : Statement (.framew address payload) := fun h =>
  decode_op (by decide) rfl (by simp only [takeThen_some, takeU8_cons, takeBytes_putBytes_nil _ h])

theorem framer (address : Byte) : Statement (.framer address) := fun _ =>
  decode_op (by decide) rfl (by simp only [takeThen_some, takeU8_cons])

theorem ackchk (rx : Bytes) : Statement (.ackchk rx) := fun h =>
  decode_op (by decide) rfl (by simp only [takeThen_some, takeBytes_putBytes_nil _ h])

theorem respchk (rx : Bytes) (expectedLen : Nat) : Statement (.respchk rx expectedLen) := fun h => by
  simp only [Instr.wf, Bool.and_eq_true] at h
  exact decode_op (by decide) rfl (by simp only [takeThen_some, takeBytes_putBytes _ _ h.1, takeNat_putNat_nil _ h.2])

theorem mkaddr (cmd : Command) (id : Option ChannelId) : Statement (.mkaddr cmd id) := fun _ =>
  decode_op (by decide) rfl (by simp only [takeThen_some, takeCommand_putCommand, takeOptId_putOptId_nil])

theorem xwrite (address : Byte) (payload : Bytes) : Statement (.xwrite address payload) := fun h =>
  decode_op (by decide) rfl (by simp only [takeThen_some, takeU8_cons, takeBytes_putBytes_nil _ h])

theorem xread (address : Byte) (expectedLen : Nat) : Statement (.xread address expectedLen) := fun h =>
  decode_op (by decide) rfl (by simp only [takeThen_some, takeU8_cons, takeNat_putNat_nil _ h])

theorem packu32 (v : Word) : Statement (.packu32 v) := fun _ =>
  decode_op (by decide) rfl (by simp only [takeThen_some, takeU32_packU32_nil])

theorem unpacku32 (b : Bytes) : Statement (.unpacku32 b) := fun h =>
  decode_op (by decide) rfl (by simp only [takeThen_some, takeBytes_putBytes_nil _ h])

theorem packu16 (v : Half) : Statement (.packu16 v) := fun _ =>
  decode_op (by decide) rfl (by simp only [takeThen_some, takeU16_packU16_nil])

theorem unpacku16 (b : Bytes) : Statement (.unpacku16 b) := fun h =>
  decode_op (by decide) rfl (by simp only [takeThen_some, takeBytes_putBytes_nil _ h])

theorem packbool (v : Bool) : Statement (.packbool v) := fun _ =>
  decode_op (by decide) rfl (by simp only [takeThen_some, takeBool_putBool_nil])

theorem labelfit (l : Bytes) : Statement (.labelfit l) := fun h =>
  decode_op (by decide) rfl (by simp only [takeThen_some, takeBytes_putBytes_nil _ h])

theorem packvco (low high : Half) : Statement (.packvco low high) := fun _ =>
  decode_op (by decide) rfl (by simp only [takeThen_some, takeU16_packU16, takeU16_packU16_nil])

theorem unpackvco (b : Bytes) : Statement (.unpackvco b) := fun h =>
  decode_op (by decide) rfl (by simp only [takeThen_some, takeBytes_putBytes_nil _ h])

theorem stphase (id : ChannelId) (status : Byte) : Statement (.stphase id status) := fun _ =>
  decode_op (by decide) rfl (by simp only [takeThen_some, takeId_putId, takeU8_cons])

theorem strefsel (status : Byte) : Statement (.strefsel status) := fun _ =>
  decode_op (by decide) rfl (by simp only [takeThen_some, takeU8_cons])

theorem unpackr0 (w : Word) : Statement (.unpackr0 w) := fun _ =>
  decode_op (by decide) rfl (by simp only [takeThen_some, takeU32_packU32_nil])

theorem unpackr1 (w : Word) : Statement (.unpackr1 w) := fun _ =>
  decode_op (by decide) rfl (by simp only [takeThen_some, takeU32_packU32_nil])

theorem unpackr2 (w : Word) : Statement (.unpackr2 w) := fun _ =>
  decode_op (by decide) rfl (by simp only [takeThen_some, takeU32_packU32_nil])

theorem unpackr3 (w : Word) : Statement (.unpackr3 w) := fun _ =>
  decode_op (by decide) rfl (by simp only [takeThen_some, takeU32_packU32_nil])

theorem unpackr4 (w : Word) : Statement (.unpackr4 w) := fun _ =>
  decode_op (by decide) rfl (by simp only [takeThen_some, takeU32_packU32_nil])

theorem unpackr5 (w : Word) : Statement (.unpackr5 w) := fun _ =>
  decode_op (by decide) rfl (by simp only [takeThen_some, takeU32_packU32_nil])

theorem fget (w : Word) (off width : Nat) : Statement (.fget w off width) := fun h => by
  simp only [Instr.wf, Bool.and_eq_true] at h
  exact decode_op (by decide) rfl (by simp only [takeThen_some, takeU32_packU32, takeNat_putNat _ _ h.1, takeNat_putNat_nil _ h.2])

theorem fset (w : Word) (off width : Nat) (v : Word) : Statement (.fset w off width v) := fun h => by
  simp only [Instr.wf, Bool.and_eq_true] at h
  exact decode_op (by decide) rfl (by simp only [takeThen_some, takeU32_packU32, takeNat_putNat _ _ h.1, takeNat_putNat _ _ h.2, takeU32_packU32_nil])

theorem packr0 (u : UnpackedR0) : Statement (.packr0 u) := fun _ =>
  decode_op (by decide) rfl (by simp only [takeThen_some, takeU32_packU32, putWords])

theorem packr1 (u : UnpackedR1) : Statement (.packr1 u) := fun _ =>
  decode_op (by decide) rfl (by simp only [takeThen_some, takeU32_packU32, putWords])

theorem packr2 (u : UnpackedR2) : Statement (.packr2 u) := fun _ =>
  decode_op (by decide) rfl (by simp only [takeThen_some, takeU32_packU32, putWords])

theorem packr3 (u : UnpackedR3) : Statement (.packr3 u) := fun _ =>
  decode_op (by decide) rfl (by simp only [takeThen_some, takeU32_packU32, putWords])

theorem packr4 (u : UnpackedR4) : Statement (.packr4 u) := fun _ =>
  decode_op (by decide) rfl (by simp only [takeThen_some, takeU32_packU32, putWords])

theorem packr5 (u : UnpackedR5) : Statement (.packr5 u) := fun _ =>
  decode_op (by decide) rfl (by simp only [takeThen_some, takeU32_packU32, putWords])

theorem unpackblk (b : Bytes) : Statement (.unpackblk b) := fun h =>
  decode_op (by decide) rfl (by simp only [takeThen_some, takeBytes_putBytes_nil _ h])

theorem packblk (x : RegBlock) : Statement (.packblk x) := fun _ =>
  decode_op (by decide) rfl (by simp only [takeThen_some, takeRegBlock_putRegBlock_nil])

theorem dbfenc (dbf : Word) : Statement (.dbfenc dbf) := fun _ =>
  decode_op (by decide) rfl (by simp only [takeThen_some, takeU32_packU32_nil])

theorem dbfdec (code : Word) : Statement (.dbfdec code) := fun _ =>
  decode_op (by decide) rfl (by simp only [takeThen_some, takeU32_packU32_nil])

theorem rflenc (level : SWord) : Statement (.rflenc level) := fun _ =>
  decode_op (by decide) rfl (by simp only [takeThen_some, takeU32_packU32_nil])

theorem rfldec (code : Word) : Statement (.rfldec code) := fun _ =>
  decode_op (by decide) rfl (by simp only [takeThen_some, takeU32_packU32_nil])

theorem lspenc (v : Bool) : Statement (.lspenc v) := fun _ =>
  decode_op (by decide) rfl (by simp only [takeThen_some, takeBool_putBool_nil])

theorem lspdec (raw : Word) : Statement (.lspdec raw) := fun _ =>
  decode_op (by decide) rfl (by simp only [takeThen_some, takeU32_packU32_nil])

theorem getfs (x : RegBlock) : Statement (.getfs x) := fun _ =>
  decode_op (by decide) rfl (by simp only [takeThen_some, takeRegBlock_putRegBlock_nil])

theorem setfs (x : RegBlock) (fs : FrequencySetting) : Statement (.setfs x fs) := fun _ =>
  decode_op (by decide) rfl (by simp only [takeThen_some, takeRegBlock_putRegBlock, takeU32_packU32, putWords])

theorem getopt (x : RegBlock) : Statement (.getopt x) := fun _ =>
  decode_op (by decide) rfl (by simp only [takeThen_some, takeRegBlock_putRegBlock_nil])

theorem setopt (x : RegBlock) (o : Options) : Statement (.setopt x o) := fun _ =>
  decode_op (by decide) rfl (by simp only [takeThen_some, takeRegBlock_putRegBlock, takeBool_putBool, takeU32_packU32, takeBool_putBool_nil])

theorem getrfl (x : RegBlock) : Statement (.getrfl x) := fun _ =>
  decode_op (by decide) rfl (by simp only [takeThen_some, takeRegBlock_putRegBlock_nil])

theorem setrfl (x : RegBlock) (level : SWord) : Statement (.setrfl x level) := fun _ =>
  decode_op (by decide) rfl (by simp only [takeThen_some, takeRegBlock_putRegBlock, takeU32_packU32_nil])

theorem gcd (a b : Word) : Statement (.gcd a b) := fun _ =>
  decode_op (by decide) rfl (by simp only [takeThen_some, takeU32_packU32, takeU32_packU32_nil])

theorem reduce (frac mod : Word) : Statement (.reduce frac mod) := fun _ =>
  decode_op (by decide) rfl (by simp only [takeThen_some, takeU32_packU32, takeU32_packU32_nil])

theorem getRegs (id : ChannelId) : Statement (.getRegs id) := fun _ => decode_command (commandAt_addressOf _ _ rfl) rfl

theorem setRegs (id : ChannelId) (x : RegBlock) : Statement (.setRegs id x) := fun _ =>
  decode_command (commandAt_addressOf _ _ rfl) (by simp only [commandOperands, takeThen_some, takeRegBlock_putRegBlock_nil])

theorem getLabel (id : ChannelId) : Statement (.getLabel id) := fun _ => decode_command (commandAt_addressOf _ _ rfl) rfl

theorem setLabel (id : ChannelId) (l : Bytes) : Statement (.setLabel id l) := fun h => by
  have hl : l.length = 16 := by simpa [Instr.wf] using h
  have ht := takeExact_append l []
  rw [List.append_nil, hl] at ht
  exact decode_command (commandAt_addressOf _ _ rfl) (by simp only [commandOperands, ht, takeThen_some])

theorem getVco (id : ChannelId) : Statement (.getVco id) := fun _ => decode_command (commandAt_addressOf _ _ rfl) rfl

theorem setVco (id : ChannelId) (low high : Half) : Statement (.setVco id low high) := fun _ =>
  decode_command (commandAt_addressOf _ _ rfl) (by simp only [commandOperands, takeThen_some, takeU16_packU16, takeU16_packU16_nil])

theorem getRef : Statement .getRef := fun _ => decode_command (commandAt_baseAddress _) rfl

theorem setRef (hz : Word) : Statement (.setRef hz) := fun _ =>
  decode_command (commandAt_baseAddress _) (by simp only [commandOperands, takeThen_some, takeU32_packU32_nil])

theorem getStatus (id : ChannelId) : Statement (.getStatus id) := fun _ => decode_command (commandAt_addressOf _ _ rfl) rfl

theorem setRefsel (v : Bool) : Statement (.setRefsel v) := fun _ =>
  decode_command (commandAt_baseAddress _) (by simp only [commandOperands, takeThen_some, takeBool_putBool_nil])

theorem flash : Statement .flash := fun _ => decode_command (commandAt_baseAddress _) rfl

end Sys2Proof.Laws.RoundTrip
end

