-- ==== Sys2Proof/Safety.lean ====
section
/-!
DEFINITION. The terms the claims use: the spec's byte sums, big-endian bytes and frames written as arithmetic, what an exchange
leaves in the state, what the transport must answer, and the frames a run may have sent.
-/

namespace Sys2Proof.Safety

open Sys2Proof Sys2Proof.Machine

/-! ## Arithmetic the rules are stated in -/

/-- The sum of the byte values as unsigned integers (R90). -/
def byteSum (b : Bytes) : Nat := (b.map BitVec.toNat).sum

/-- The additive checksum as a byte: the sum modulo 256. -/
def sumByte (b : Bytes) : Byte := BitVec.ofNat 8 (byteSum b)

/-- `n` bytes of a number, most significant first (R41). -/
def bigEndian (n v : Nat) : Bytes := (List.range n).map fun j => BitVec.ofNat 8 (v / 256 ^ (n - 1 - j))

/-- The number that big-endian bytes write (R41). -/
def bigEndianValue (b : Bytes) : Nat := b.foldl (fun n x => n * 256 + x.toNat) 0

/-- The 24 bytes of a register block: Register0 first, each big-endian (R42). -/
def blockBytes (x : RegBlock) : Bytes :=
  bigEndian 4 x.r0.toNat ++ bigEndian 4 x.r1.toNat ++ bigEndian 4 x.r2.toNat ++ bigEndian 4 x.r3.toNat ++
    bigEndian 4 x.r4.toNat ++ bigEndian 4 x.r5.toNat

/-- The four bytes of a VCO range, `low` first (R67). -/
def vcoBytes (v : VcoRange) : Bytes := bigEndian 2 v.low.toNat ++ bigEndian 2 v.high.toNat

/-- `floor(w / 2^off) mod 2^width` (R7). -/
def fieldOf (w : Word) (off width : Nat) : Word := BitVec.ofNat 32 (w.toNat / 2 ^ off % 2 ^ width)

/-- The address column of R66: `base` for channel A, `base + 8` for channel B. -/
def channelAddress (base : Byte) : ChannelId → Byte
  | .a => base
  | .b => base + 0x08

/-- The command table of R66: mnemonic, address for A, whether it is per channel, payload bytes. -/
def commandTable : List (Command × Byte × Bool × Nat) :=
  [(.getRegs, 0x80, true, 24), (.setRegs, 0x00, true, 24), (.getLabel, 0x82, true, 16), (.setLabel, 0x02, true, 16),
   (.getVco, 0x83, true, 4), (.setVco, 0x03, true, 4), (.getRef, 0x81, false, 4), (.setRef, 0x01, false, 4),
   (.getStatus, 0x86, true, 1), (.setRefsel, 0x06, false, 1), (.flash, 0x40, false, 0)]

/-- The eighteen address bytes of R66, "the complete set". -/
def listedAddresses : List Byte :=
  [0x00, 0x01, 0x02, 0x03, 0x06, 0x08, 0x0A, 0x0B, 0x40, 0x80, 0x81, 0x82, 0x83, 0x86, 0x88, 0x8A, 0x8B, 0x8E]

/-- The effective phase detector frequency in MHz (R230): the reference, doubled, halved and divided as the options say; `r` of 0 and
of 1 divides by nothing. -/
def effectiveFrequency (hz : Word) (o : Options) : Rat :=
  (hz.toNat : Rat) / 1000000 * (if o.doubleRef then 2 else 1) / (if o.halfRef then 2 else 1) / ((max o.r.toNat 1 : Nat) : Rat)

/-- `k` is `t` rounded (R238): `floor(t + 0.5)` where ROUND_HALF_UP is true, `floor(t)` where it is false. -/
def IsRounded (halfUp : Bool) (t : Rat) (k : Nat) : Prop :=
  if halfUp then (k : Rat) ≤ t + 1 / 2 ∧ t + 1 / 2 < (k : Rat) + 1 else (k : Rat) ≤ t ∧ t < (k : Rat) + 1

/-! ## Frames -/

/-- A write frame: `[address][payload][checksum]`, the checksum being (address + sum of payload bytes) mod 256 (R60). -/
def frameOf (address : Byte) (payload : Bytes) : Bytes :=
  address :: payload ++ [BitVec.ofNat 8 (address.toNat + byteSum payload)]

/-- A valid read response: `[payload][checksum]`, the checksum over the payload only (R63). -/
def replyOf (payload : Bytes) : Bytes := payload ++ [sumByte payload]

/-- A byte string the block may give to TxWrite: one request byte (R62), or a write frame (R60). -/
def IsFrame (f : Bytes) : Prop := f.length = 1 ∨ ∃ address payload, f = frameOf address payload

/-- Every byte string given to TxWrite was a frame of R60 or R62: what the address byte and payload say is what the checksum
covers, in every run. -/
def FramesSent (s : State) : Prop := ∀ f ∈ s.sent, IsFrame f

/-- The byte strings of a controller function's expansion (R216 to R229, R231, R232), in order, where `x` is the block that its write
exchange carries. -/
def expansionFrames (x : RegBlock) : Call → List Bytes
  | .getFrequency id => [[channelAddress 0x80 id], [0x81], [channelAddress 0x80 id]]
  | .setFrequency id _ _ => [[channelAddress 0x83 id], [0x81], [channelAddress 0x80 id], [channelAddress 0x80 id],
      frameOf (channelAddress 0x00 id) (blockBytes x)]
  | .getReference => [[0x81]]
  | .setReference hz => [frameOf 0x01 (bigEndian 4 hz.toNat)]
  | .getRfLevel id | .getOptions id => [[channelAddress 0x80 id]]
  | .setRfLevel id _ | .setOptions id _ =>
    [[channelAddress 0x80 id], frameOf (channelAddress 0x00 id) (blockBytes x)]
  | .getRefSelect => [[0x86]]
  | .setRefSelect v => [frameOf 0x06 [BitVec.ofNat 8 v.toNat]]
  | .getVcoRange id => [[channelAddress 0x83 id]]
  | .setVcoRange id v => [frameOf (channelAddress 0x03 id) (vcoBytes v)]
  | .getPhaseLock id => [[channelAddress 0x86 id]]
  | .getLabel id => [[channelAddress 0x82 id]]
  | .setLabel id l => [frameOf (channelAddress 0x02 id) ((List.range 16).map (l.getD · 0))]
  | .flash => [[0x40, 0x40]]

/-! ## What one exchange leaves -/

/-- `t` is `s` after one exchange: one byte string was given to TxWrite, one draw was used, one response came back, the device is
`dev`; nothing else changed. The seven fields of the state are all named. -/
def Exchanged (s t : State) (frame : Bytes) (r : Response) (dev : Device) : Prop :=
  t.requests = s.requests ∧ t.responses = s.responses ++ [r] ∧ t.sent = s.sent ++ [frame] ∧ t.link = s.link.tail ∧
    t.draws = (if s.link = [] then s.draws + 1 else s.draws) ∧ t.device = dev ∧ t.roundHalfUp = s.roundHalfUp

/-! ## What the transport answers next -/

/-- The next exchange's TxWrite takes all of a write frame, and its RxRead(1) then returns `rx`. -/
def WriteAnswered (s : State) (address : Byte) (payload rx : Bytes) : Prop :=
  accepted (nextDraw s) (payload.length + 2) = payload.length + 2 ∧
    received (nextDraw s) (writeReply s.device address payload) 1 = rx

/-- The device at the next read exchange, when it answers (N11: a read may find it changed). -/
def deviceAtRead (s : State) : Device := (nextDraw s).drift.getD s.device

/-- The next exchange's TxWrite takes the request byte, and its RxRead(n + 1) then returns `rx`. -/
def ReadAnswered (s : State) (address : Byte) (n : Nat) (rx : Bytes) : Prop :=
  accepted (nextDraw s) 1 = 1 ∧ received (nextDraw s) (readReply (deviceAtRead s) address) (n + 1) = rx

/-- The named assumption of R187 about one exchange: the whole frame is taken, an attached device replies from its items, and holds
what it acknowledged. -/
def idealDraw : Draw := { accepted := none, answer := .faithful, applied := false, drift := none }

/-- The next `n` exchanges are as the assumption of R187 has them. -/
def IdealLink (s : State) (n : Nat) : Prop := ∃ rest, s.link = List.replicate n idealDraw ++ rest

/-- The first three exchanges of `setFrequency` in `s` (R232) were valid: they read the VCO range, the reference, and registers whose
options are `o`, and left `s'`. A state without the response a command adds is where an expansion goes on. -/
def ReadForSetFrequency (s : State) (id : ChannelId) (v : VcoRange) (hz : Word) (o : Options) (s' : State) : Prop :=
  ∃ (s₁ s₂ : State) (x : RegBlock), exec (.getVco id) s = .next (s₁.respond (.ok (.vco v))) ∧
    exec .getRef s₁ = .next (s₂.respond (.ok (.word hz))) ∧
    exec (.getRegs id) s₂ = .next (s'.respond (.ok (.block x))) ∧
    exec (.getopt x) s' = .next (s'.respond (.ok (.options o)))

/-- The bits of a register block that belong to no field (R22): Register0 to Register5 outside their mapped masks. -/
def unmappedBits (x : RegBlock) : RegBlock :=
  { r0 := x.r0 &&& 0x80000000, r1 := x.r1 &&& 0xF0000000, r2 := x.r2 &&& 0x80000000,
    r3 := x.r3 &&& 0xFFFA0000, r4 := x.r4 &&& 0xFF000000, r5 := x.r5 &&& 0xFF3FFFF8 }

/-- The block operations that use no transport: all of R75 but XWRITE and XREAD. -/
def isPure : Instr → Bool
  | .xwrite _ _ => false
  | .xread _ _ => false
  | i => i.space == .op

/-- The statuses an instruction's response may have (R250): OK, and the errors of the table's "raised by" column and of R251 to R255. -/
def statusesOf : Instr → List Nat
  | .cksum _ | .ckverify _ _ | .framew _ _ | .framer _ | .packu32 _ | .packu16 _ | .packbool _ | .labelfit _
  | .packvco _ _ | .stphase _ _ | .strefsel _ | .unpackr0 _ | .unpackr1 _ | .unpackr2 _ | .unpackr3 _ | .unpackr4 _
  | .unpackr5 _ | .packblk _ | .lspenc _ | .getrfl _ | .gcd _ _ | .reduce _ _ => [0]
  | .mkaddr _ _ | .unpacku32 _ | .unpacku16 _ | .unpackvco _ | .fget _ _ _ | .fset _ _ _ _ | .packr0 _ | .packr1 _
  | .packr2 _ | .packr3 _ | .packr4 _ | .packr5 _ | .unpackblk _ | .dbfenc _ | .rflenc _ | .rfldec _ | .setfs _ _
  | .setopt _ _ | .setrfl _ _ => [0, 4]
  | .dbfdec _ | .lspdec _ => [0, 4, 5]
  | .getfs _ | .getopt _ => [0, 5]
  | .ackchk _ => [0, 1, 3, 4]
  | .respchk _ _ => [0, 1, 2, 4]
  | .xwrite _ _ | .setRegs _ _ | .setVco _ _ _ | .setRef _ | .setRefsel _ | .flash => [0, 1, 3]
  | .setLabel _ _ => [0, 1, 3, 4]
  | .xread _ _ | .getRegs _ | .getLabel _ | .getVco _ | .getRef | .getStatus _ => [0, 1, 2]

end Sys2Proof.Safety
end

