-- ==== Sys2Proof/Certificates/Slice0/Obligations.lean ====
section
/-!
DEFINITION. The statements for the provers, from the numbered rules of spec/. Each docstring names the rule it formalises, or says
that it rests on a choice of the model.
-/

open Sys2Proof Sys2Proof.Machine Sys2Proof.Safety

/-! ## Checksum framer (spec/40_checksum_framer.md) -/

/-- R90, R91: CKSUM answers the sum of all bytes modulo 256, for every byte string, the empty one among them; CKVERIFY answers whether it
is the expected byte, and a mismatch is no error. -/
def Obligations.ChecksumIsByteSumModulo256 : Prop :=
  (∀ (b : Bytes) (s : State), ∃ c : Byte,
    exec (.cksum b) s = .next (s.respond (.ok (.byte c))) ∧ c.toNat = byteSum b % 256) ∧
  (∀ (b : Bytes) (e : Byte) (s : State),
    exec (.ckverify b e) s = .next (s.respond (.ok (.bool (decide (byteSum b % 256 = e.toNat))))))

/-- R97: one flipped bit, in the payload or in the checksum byte, makes CKVERIFY fail; two flips of the same bit, from 0 to 1 in one
byte of the string and from 1 to 0 in another, do not. -/
def Obligations.SingleBitFlipIsDetected : Prop :=
  (∀ (b : Bytes) (e : Byte) (s : State), exec (.ckverify b e) s = .next (s.respond (.ok (.bool true))) →
    ∀ k < 8,
      (∀ i < b.length, exec (.ckverify (b.set i (b.getD i 0 ^^^ BitVec.twoPow 8 k)) e) s =
        .next (s.respond (.ok (.bool false)))) ∧
      exec (.ckverify b (e ^^^ BitVec.twoPow 8 k)) s = .next (s.respond (.ok (.bool false)))) ∧
  (∀ (b : Bytes) (e : Byte) (s : State), exec (.ckverify b e) s = .next (s.respond (.ok (.bool true))) →
    ∀ k < 8, ∀ i < b.length, ∀ j < b.length, (b.getD i 0).getLsbD k = false → (b.getD j 0).getLsbD k = true →
      exec (.ckverify ((b.set i (b.getD i 0 ^^^ BitVec.twoPow 8 k)).set j (b.getD j 0 ^^^ BitVec.twoPow 8 k)) e) s =
        .next (s.respond (.ok (.bool true))))

/-- R93, R94: FRAMEW appends the checksum of address and payload, for any payload; FRAMER is the address alone. -/
def Obligations.FramesAreBuiltAsTheirFormats : Prop :=
  (∀ (a : Byte) (p : Bytes) (s : State), exec (.framew a p) s = .next (s.respond (.ok (.bytes (frameOf a p))))) ∧
  (∀ (a : Byte) (s : State), exec (.framer a) s = .next (s.respond (.ok (.bytes [a]))))

/-- R95: ACKCHK, every case: no byte, more than one byte, 0x06, any of the other 255 values. -/
def Obligations.AckchkAcceptsOnlyAck : Prop :=
  ∀ s : State,
    exec (.ackchk []) s = .next (s.respond (.error (.transport .rxRead 1 0))) ∧
    (∀ b : Byte, exec (.ackchk [b]) s =
      .next (s.respond (if b.toNat = 6 then .ok .none else .error (.protocol b)))) ∧
    (∀ rx : Bytes, 1 < rx.length → exec (.ackchk rx) s = .next (s.respond (.error (.invalidArgument .rxTooLong))))

/-- R96: RESPCHK, every case, the length tests before the checksum; a mismatch answers no payload. -/
def Obligations.RespchkSplitsAndVerifies : Prop :=
  ∀ (rx : Bytes) (n : Nat) (s : State),
    (rx.length < n + 1 →
      exec (.respchk rx n) s = .next (s.respond (.error (.transport .rxRead (n + 1) rx.length)))) ∧
    (n + 1 < rx.length → exec (.respchk rx n) s = .next (s.respond (.error (.invalidArgument .rxTooLong)))) ∧
    (∀ (p : Bytes) (c : Byte), rx = p ++ [c] → p.length = n →
      exec (.respchk rx n) s = .next (s.respond
        (if byteSum p % 256 = c.toNat then .ok (.bytes p) else .error (.checksum (sumByte p) c))))

/-! ## Scalar codecs (spec/41_scalar_codecs.md) -/

/-- R110 to R113: PACKU32 and PACKU16 answer the big-endian bytes; UNPACKU32 and UNPACKU16 answer the big-endian value of exactly four
and exactly two bytes, and InvalidArgument for any other length. -/
def Obligations.IntegerCodecsAreBigEndian : Prop :=
  (∀ (v : Word) (s : State), exec (.packu32 v) s = .next (s.respond (.ok (.bytes (bigEndian 4 v.toNat))))) ∧
  (∀ (v : Half) (s : State), exec (.packu16 v) s = .next (s.respond (.ok (.bytes (bigEndian 2 v.toNat))))) ∧
  (∀ (b : Bytes) (s : State), exec (.unpacku32 b) s = .next (s.respond
    (if b.length = 4 then .ok (.word (BitVec.ofNat 32 (bigEndianValue b))) else .error (.invalidArgument .length)))) ∧
  (∀ (b : Bytes) (s : State), exec (.unpacku16 b) s = .next (s.respond
    (if b.length = 2 then .ok (.half (BitVec.ofNat 16 (bigEndianValue b))) else .error (.invalidArgument .length))))

/-- The corner cases of R111 and R113: packing and unpacking are inverse to each other, in both directions and both widths. -/
def Obligations.IntegerCodecsAreInverse : Prop :=
  (∀ (v : Word) (s : State), ∃ b, exec (.packu32 v) s = .next (s.respond (.ok (.bytes b))) ∧
    exec (.unpacku32 b) s = .next (s.respond (.ok (.word v)))) ∧
  (∀ (b : Bytes) (s : State), b.length = 4 → ∃ v, exec (.unpacku32 b) s = .next (s.respond (.ok (.word v))) ∧
    exec (.packu32 v) s = .next (s.respond (.ok (.bytes b)))) ∧
  (∀ (v : Half) (s : State), ∃ b, exec (.packu16 v) s = .next (s.respond (.ok (.bytes b))) ∧
    exec (.unpacku16 b) s = .next (s.respond (.ok (.half v)))) ∧
  (∀ (b : Bytes) (s : State), b.length = 2 → ∃ v, exec (.unpacku16 b) s = .next (s.respond (.ok (.half v))) ∧
    exec (.packu16 v) s = .next (s.respond (.ok (.bytes b))))

/-- R115: LABELFIT answers 16 bytes: those of the operand, then zeros; bytes from the sixteenth on are dropped. -/
def Obligations.LabelfitGivesSixteenBytes : Prop :=
  ∀ (l : Bytes) (s : State), ∃ b : Bytes, exec (.labelfit l) s = .next (s.respond (.ok (.bytes b))) ∧
    b.length = 16 ∧ ∀ i < 16, b.getD i 0 = l.getD i 0

/-- R114, R116, R117: PACKBOOL is 0x01 for true and 0x00 for false; PACKVCO puts `low` first and accepts `low > high`; UNPACKVCO
reads exactly four bytes back. -/
def Obligations.SmallPayloadCodecs : Prop :=
  (∀ (v : Bool) (s : State), exec (.packbool v) s = .next (s.respond (.ok (.bytes [BitVec.ofNat 8 v.toNat])))) ∧
  (∀ (lo hi : Half) (s : State), exec (.packvco lo hi) s =
    .next (s.respond (.ok (.bytes (bigEndian 2 lo.toNat ++ bigEndian 2 hi.toNat))))) ∧
  (∀ (b : Bytes) (s : State), exec (.unpackvco b) s = .next (s.respond
    (if b.length = 4 then
      .ok (.vco ⟨BitVec.ofNat 16 (bigEndianValue (b.take 2)), BitVec.ofNat 16 (bigEndianValue (b.drop 2))⟩)
    else .error (.invalidArgument .length))))

/-- R118, R119: the phase lock of A is bit 5 of the status byte, of B bit 4, the reference select bit 0; no other bit matters. -/
def Obligations.StatusByteBits : Prop :=
  (∀ (st : Byte) (s : State), exec (.stphase .a st) s =
    .next (s.respond (.ok (.bool (decide (st.toNat / 2 ^ 5 % 2 = 1)))))) ∧
  (∀ (st : Byte) (s : State), exec (.stphase .b st) s =
    .next (s.respond (.ok (.bool (decide (st.toNat / 2 ^ 4 % 2 = 1)))))) ∧
  (∀ (st : Byte) (s : State), exec (.strefsel st) s = .next (s.respond (.ok (.bool (decide (st.toNat % 2 = 1))))))

/-! ## Register codec (spec/42_register_codec.md) -/

/-- R130: FGET answers `floor(w / 2^off) mod 2^width` for a field inside the word, and InvalidArgument for any other. -/
def Obligations.FgetExtractsTheField : Prop :=
  ∀ (w : Word) (off width : Nat) (s : State),
    (1 ≤ width → off + width ≤ 32 → ∃ v : Word, exec (.fget w off width) s = .next (s.respond (.ok (.word v))) ∧
      v.toNat = w.toNat / 2 ^ off % 2 ^ width ∧
      ∀ i, v.getLsbD i = (decide (i < width) && w.getLsbD (off + i))) ∧
    ((width < 1 ∨ 32 < off + width) →
      exec (.fget w off width) s = .next (s.respond (.error (.invalidArgument .fieldRange))))

/-- R131: FSET puts the value into the field and leaves every other bit; a field outside the word and a value that does not fit
are InvalidArgument. -/
def Obligations.FsetChangesOnlyTheField : Prop :=
  ∀ (w : Word) (off width : Nat) (v : Word) (s : State),
    ((width < 1 ∨ 32 < off + width) →
      exec (.fset w off width v) s = .next (s.respond (.error (.invalidArgument .fieldRange)))) ∧
    (1 ≤ width → off + width ≤ 32 → 2 ^ width ≤ v.toNat →
      exec (.fset w off width v) s = .next (s.respond (.error (.invalidArgument .fieldValue)))) ∧
    (1 ≤ width → off + width ≤ 32 → v.toNat < 2 ^ width →
      ∃ w' : Word, exec (.fset w off width v) s = .next (s.respond (.ok (.word w'))) ∧
        ∀ i < 32, w'.getLsbD i = if off ≤ i ∧ i < off + width then v.getLsbD (i - off) else w.getLsbD i)

/-- The corner cases of R131: FGET reads back what FSET wrote, FSET of what FGET read changes nothing, and two FSETs on disjoint
fields commute. -/
def Obligations.FieldAccessorsAgree : Prop :=
  ∀ (w : Word) (off width : Nat) (s : State), 1 ≤ width → off + width ≤ 32 →
    (∀ v : Word, v.toNat < 2 ^ width → ∃ w', exec (.fset w off width v) s = .next (s.respond (.ok (.word w'))) ∧
      exec (.fget w' off width) s = .next (s.respond (.ok (.word v)))) ∧
    (∃ v, exec (.fget w off width) s = .next (s.respond (.ok (.word v))) ∧
      exec (.fset w off width v) s = .next (s.respond (.ok (.word w)))) ∧
    (∀ (off' width' : Nat) (v v' : Word), 1 ≤ width' → off' + width' ≤ 32 →
      (off + width ≤ off' ∨ off' + width' ≤ off) → v.toNat < 2 ^ width → v'.toNat < 2 ^ width' →
      ∃ w₁ w₂ w₃, exec (.fset w off width v) s = .next (s.respond (.ok (.word w₁))) ∧
        exec (.fset w₁ off' width' v') s = .next (s.respond (.ok (.word w₃))) ∧
        exec (.fset w off' width' v') s = .next (s.respond (.ok (.word w₂))) ∧
        exec (.fset w₂ off width v) s = .next (s.respond (.ok (.word w₃))))

/-- R132 to R137: the members of UNPACKR0 to UNPACKR5; every word unpacks, the value codes are answered raw, and bit 17 of Register3 stays
in `rsvd`. -/
def Obligations.UnpackReadsEveryField : Prop :=
  ∀ (w : Word) (s : State),
    exec (.unpackr0 w) s = .next (s.respond (.ok (.unpackedR0
      { control := fieldOf w 0 3, frac := fieldOf w 3 12, ncount := fieldOf w 15 16,
        rsvd := BitVec.ofNat 32 (w.toNat / 2 ^ 31 * 2 ^ 31) }))) ∧
    exec (.unpackr1 w) s = .next (s.respond (.ok (.unpackedR1
      { control := fieldOf w 0 3, mod := fieldOf w 3 12, phase := fieldOf w 15 12, prescaler := fieldOf w 27 1,
        rsvd := BitVec.ofNat 32 (w.toNat / 2 ^ 28 * 2 ^ 28) }))) ∧
    exec (.unpackr2 w) s = .next (s.respond (.ok (.unpackedR2
      { control := fieldOf w 0 3, counterReset := fieldOf w 3 1, cpThreeState := fieldOf w 4 1, pd := fieldOf w 5 1,
        pdPolarity := fieldOf w 6 1, ldp := fieldOf w 7 1, ldf := fieldOf w 8 1, chargePump := fieldOf w 9 4,
        doubleBuffer := fieldOf w 13 1, r := fieldOf w 14 10, halfR := fieldOf w 24 1, doubleR := fieldOf w 25 1,
        muxout := fieldOf w 26 3, lowSpur := fieldOf w 29 2,
        rsvd := BitVec.ofNat 32 (w.toNat / 2 ^ 31 * 2 ^ 31) }))) ∧
    exec (.unpackr3 w) s = .next (s.respond (.ok (.unpackedR3
      { control := fieldOf w 0 3, clockDiv := fieldOf w 3 12, clockDivMode := fieldOf w 15 2, csr := fieldOf w 18 1,
        rsvd := BitVec.ofNat 32 (w.toNat / 2 ^ 19 * 2 ^ 19 + w.toNat / 2 ^ 17 % 2 * 2 ^ 17) }))) ∧
    exec (.unpackr4 w) s = .next (s.respond (.ok (.unpackedR4
      { control := fieldOf w 0 3, outputPower := fieldOf w 3 2, rfOutputEnable := fieldOf w 5 1,
        auxOutputPower := fieldOf w 6 2, auxOutputEnable := fieldOf w 8 1, auxOutputSelect := fieldOf w 9 1,
        mtld := fieldOf w 10 1, vcoPowerDown := fieldOf w 11 1, bandSelectClockDiv := fieldOf w 12 8,
        dividerSelect := fieldOf w 20 3, feedbackSelect := fieldOf w 23 1,
        rsvd := BitVec.ofNat 32 (w.toNat / 2 ^ 24 * 2 ^ 24) }))) ∧
    exec (.unpackr5 w) s = .next (s.respond (.ok (.unpackedR5
      { control := fieldOf w 0 3, ldPinMode := fieldOf w 22 2,
        rsvd := BitVec.ofNat 32 (w.toNat / 2 ^ 24 * 2 ^ 24 + w.toNat / 2 ^ 3 % 2 ^ 19 * 2 ^ 3) })))

/-- R138, R139, R141, R143: PACKR0, PACKR1, PACKR3 and PACKR5 answer the sum of `rsvd` and each member at its offset, or InvalidArgument for
the first member that does not fit, then for `rsvd` (R257); a `rsvd` with bit 17 of Register3 set is legal. -/
def Obligations.PackRegisters0And1And3And5 : Prop :=
  (∀ (u : UnpackedR0) (s : State), exec (.packr0 u) s = .next (s.respond (
    if 8 ≤ u.control.toNat then .error (.invalidArgument (.field .control))
    else if 4096 ≤ u.frac.toNat then .error (.invalidArgument (.field .frac))
    else if 65536 ≤ u.ncount.toNat then .error (.invalidArgument (.field .ncount))
    else if u.rsvd.toNat % 2 ^ 31 ≠ 0 then .error (.invalidArgument .rsvd)
    else .ok (.word (BitVec.ofNat 32
      (u.rsvd.toNat + u.ncount.toNat * 2 ^ 15 + u.frac.toNat * 2 ^ 3 + u.control.toNat)))))) ∧
  (∀ (u : UnpackedR1) (s : State), exec (.packr1 u) s = .next (s.respond (
    if 8 ≤ u.control.toNat then .error (.invalidArgument (.field .control))
    else if 4096 ≤ u.mod.toNat then .error (.invalidArgument (.field .mod))
    else if 4096 ≤ u.phase.toNat then .error (.invalidArgument (.field .phase))
    else if 2 ≤ u.prescaler.toNat then .error (.invalidArgument (.field .prescaler))
    else if u.rsvd.toNat % 2 ^ 28 ≠ 0 then .error (.invalidArgument .rsvd)
    else .ok (.word (BitVec.ofNat 32 (u.rsvd.toNat + u.prescaler.toNat * 2 ^ 27 + u.phase.toNat * 2 ^ 15 +
      u.mod.toNat * 2 ^ 3 + u.control.toNat)))))) ∧
  (∀ (u : UnpackedR3) (s : State), exec (.packr3 u) s = .next (s.respond (
    if 8 ≤ u.control.toNat then .error (.invalidArgument (.field .control))
    else if 4096 ≤ u.clockDiv.toNat then .error (.invalidArgument (.field .clockDiv))
    else if 4 ≤ u.clockDivMode.toNat then .error (.invalidArgument (.field .clockDivMode))
    else if 2 ≤ u.csr.toNat then .error (.invalidArgument (.field .csr))
    else if u.rsvd.toNat % 2 ^ 17 ≠ 0 ∨ u.rsvd.toNat / 2 ^ 18 % 2 ≠ 0 then .error (.invalidArgument .rsvd)
    else .ok (.word (BitVec.ofNat 32 (u.rsvd.toNat + u.csr.toNat * 2 ^ 18 + u.clockDivMode.toNat * 2 ^ 15 +
      u.clockDiv.toNat * 2 ^ 3 + u.control.toNat)))))) ∧
  (∀ (u : UnpackedR5) (s : State), exec (.packr5 u) s = .next (s.respond (
    if 8 ≤ u.control.toNat then .error (.invalidArgument (.field .control))
    else if 4 ≤ u.ldPinMode.toNat then .error (.invalidArgument (.field .ldPinMode))
    else if u.rsvd.toNat % 2 ^ 3 ≠ 0 ∨ u.rsvd.toNat / 2 ^ 22 % 4 ≠ 0 then .error (.invalidArgument .rsvd)
    else .ok (.word (BitVec.ofNat 32 (u.rsvd.toNat + u.ldPinMode.toNat * 2 ^ 22 + u.control.toNat))))))

/-- R140, R142: PACKR2 and PACKR4, the image and when it is refused. -/
def Obligations.PackRegisters2And4 : Prop :=
  (∀ (u : UnpackedR2) (s : State),
    let fits := u.control.toNat < 8 ∧ u.counterReset.toNat < 2 ∧ u.cpThreeState.toNat < 2 ∧ u.pd.toNat < 2 ∧
      u.pdPolarity.toNat < 2 ∧ u.ldp.toNat < 2 ∧ u.ldf.toNat < 2 ∧ u.chargePump.toNat < 16 ∧
      u.doubleBuffer.toNat < 2 ∧ u.r.toNat < 1024 ∧ u.halfR.toNat < 2 ∧ u.doubleR.toNat < 2 ∧
      u.muxout.toNat < 8 ∧ u.lowSpur.toNat < 4 ∧ u.rsvd.toNat % 2 ^ 31 = 0
    (fits → exec (.packr2 u) s = .next (s.respond (.ok (.word (BitVec.ofNat 32
      (u.rsvd.toNat + u.lowSpur.toNat * 2 ^ 29 + u.muxout.toNat * 2 ^ 26 + u.doubleR.toNat * 2 ^ 25 +
       u.halfR.toNat * 2 ^ 24 + u.r.toNat * 2 ^ 14 + u.doubleBuffer.toNat * 2 ^ 13 + u.chargePump.toNat * 2 ^ 9 +
       u.ldf.toNat * 2 ^ 8 + u.ldp.toNat * 2 ^ 7 + u.pdPolarity.toNat * 2 ^ 6 + u.pd.toNat * 2 ^ 5 +
       u.cpThreeState.toNat * 2 ^ 4 + u.counterReset.toNat * 2 ^ 3 + u.control.toNat)))))) ∧
    (¬ fits → ∃ which, exec (.packr2 u) s = .next (s.respond (.error (.invalidArgument which))))) ∧
  (∀ (u : UnpackedR4) (s : State),
    let fits := u.control.toNat < 8 ∧ u.outputPower.toNat < 4 ∧ u.rfOutputEnable.toNat < 2 ∧
      u.auxOutputPower.toNat < 4 ∧ u.auxOutputEnable.toNat < 2 ∧ u.auxOutputSelect.toNat < 2 ∧ u.mtld.toNat < 2 ∧
      u.vcoPowerDown.toNat < 2 ∧ u.bandSelectClockDiv.toNat < 256 ∧ u.dividerSelect.toNat < 8 ∧
      u.feedbackSelect.toNat < 2 ∧ u.rsvd.toNat % 2 ^ 24 = 0
    (fits → exec (.packr4 u) s = .next (s.respond (.ok (.word (BitVec.ofNat 32
      (u.rsvd.toNat + u.feedbackSelect.toNat * 2 ^ 23 + u.dividerSelect.toNat * 2 ^ 20 +
       u.bandSelectClockDiv.toNat * 2 ^ 12 + u.vcoPowerDown.toNat * 2 ^ 11 + u.mtld.toNat * 2 ^ 10 +
       u.auxOutputSelect.toNat * 2 ^ 9 + u.auxOutputEnable.toNat * 2 ^ 8 + u.auxOutputPower.toNat * 2 ^ 6 +
       u.rfOutputEnable.toNat * 2 ^ 5 + u.outputPower.toNat * 2 ^ 3 + u.control.toNat)))))) ∧
    (¬ fits → ∃ which, exec (.packr4 u) s = .next (s.respond (.error (.invalidArgument which)))))

/-- R152: unpacking any register image and packing it again gives the image back: no unmapped bit is lost. -/
def Obligations.PackAfterUnpackIsIdentity : Prop :=
  ∀ (w : Word) (s : State),
    (∃ u, exec (.unpackr0 w) s = .next (s.respond (.ok (.unpackedR0 u))) ∧
      exec (.packr0 u) s = .next (s.respond (.ok (.word w)))) ∧
    (∃ u, exec (.unpackr1 w) s = .next (s.respond (.ok (.unpackedR1 u))) ∧
      exec (.packr1 u) s = .next (s.respond (.ok (.word w)))) ∧
    (∃ u, exec (.unpackr2 w) s = .next (s.respond (.ok (.unpackedR2 u))) ∧
      exec (.packr2 u) s = .next (s.respond (.ok (.word w)))) ∧
    (∃ u, exec (.unpackr3 w) s = .next (s.respond (.ok (.unpackedR3 u))) ∧
      exec (.packr3 u) s = .next (s.respond (.ok (.word w)))) ∧
    (∃ u, exec (.unpackr4 w) s = .next (s.respond (.ok (.unpackedR4 u))) ∧
      exec (.packr4 u) s = .next (s.respond (.ok (.word w)))) ∧
    (∃ u, exec (.unpackr5 w) s = .next (s.respond (.ok (.unpackedR5 u))) ∧
      exec (.packr5 u) s = .next (s.respond (.ok (.word w))))

/-- R153: a record that the pack accepts comes back from the image it gives. -/
def Obligations.UnpackAfterPackIsIdentity : Prop :=
  ∀ (w : Word) (s : State),
    (∀ u, exec (.packr0 u) s = .next (s.respond (.ok (.word w))) →
      exec (.unpackr0 w) s = .next (s.respond (.ok (.unpackedR0 u)))) ∧
    (∀ u, exec (.packr1 u) s = .next (s.respond (.ok (.word w))) →
      exec (.unpackr1 w) s = .next (s.respond (.ok (.unpackedR1 u)))) ∧
    (∀ u, exec (.packr2 u) s = .next (s.respond (.ok (.word w))) →
      exec (.unpackr2 w) s = .next (s.respond (.ok (.unpackedR2 u)))) ∧
    (∀ u, exec (.packr3 u) s = .next (s.respond (.ok (.word w))) →
      exec (.unpackr3 w) s = .next (s.respond (.ok (.unpackedR3 u)))) ∧
    (∀ u, exec (.packr4 u) s = .next (s.respond (.ok (.word w))) →
      exec (.unpackr4 w) s = .next (s.respond (.ok (.unpackedR4 u)))) ∧
    (∀ u, exec (.packr5 u) s = .next (s.respond (.ok (.word w))) →
      exec (.unpackr5 w) s = .next (s.respond (.ok (.unpackedR5 u))))

/-- R144, R145: PACKBLK lays out Register0 first, each image big-endian; UNPACKBLK reads any 24 bytes back and refuses every other
length; the two are inverse. -/
def Obligations.RegisterBlockCodec : Prop :=
  (∀ (x : RegBlock) (s : State), exec (.packblk x) s = .next (s.respond (.ok (.bytes (blockBytes x))))) ∧
  (∀ (b : Bytes) (s : State), b.length = 24 → ∃ x, exec (.unpackblk b) s = .next (s.respond (.ok (.block x))) ∧
    blockBytes x = b) ∧
  (∀ (b : Bytes) (s : State), b.length ≠ 24 →
    exec (.unpackblk b) s = .next (s.respond (.error (.invalidArgument .length)))) ∧
  (∀ (x : RegBlock) (s : State), exec (.unpackblk (blockBytes x)) s = .next (s.respond (.ok (.block x))))

/-- R146 to R151, in both directions. The divider: `dbf = 2^code` for codes 0 to 4, codes 5 to 7 ReservedCode. The RF level:
`level = 3*code - 4` for codes 0 to 3, with no rounding. Low spur: true is raw 3 and false raw 0, raw 1 and 2 ReservedCode. Every other
operand is InvalidArgument. -/
def Obligations.ValueCodesMapBothWays : Prop :=
  ∀ s : State,
    (∀ c < 5, exec (.dbfenc (BitVec.twoPow 32 c)) s = .next (s.respond (.ok (.word (BitVec.ofNat 32 c)))) ∧
      exec (.dbfdec (BitVec.ofNat 32 c)) s = .next (s.respond (.ok (.word (BitVec.twoPow 32 c))))) ∧
    (∀ d : Word, (∀ c < 5, d ≠ BitVec.twoPow 32 c) →
      exec (.dbfenc d) s = .next (s.respond (.error (.invalidArgument .dbf)))) ∧
    (∀ c : Word, 5 ≤ c.toNat → c.toNat ≤ 7 →
      exec (.dbfdec c) s = .next (s.respond (.error (.reservedCode .dividerSelect c)))) ∧
    (∀ c : Word, 8 ≤ c.toNat → exec (.dbfdec c) s = .next (s.respond (.error (.invalidArgument .code)))) ∧
    (∀ c : Nat, c < 4 → ∀ l : SWord, l.toInt = 3 * (c : Int) - 4 →
      exec (.rflenc l) s = .next (s.respond (.ok (.word (BitVec.ofNat 32 c)))) ∧
      exec (.rfldec (BitVec.ofNat 32 c)) s = .next (s.respond (.ok (.level l)))) ∧
    (∀ l : SWord, (∀ c : Nat, c < 4 → l.toInt ≠ 3 * (c : Int) - 4) →
      exec (.rflenc l) s = .next (s.respond (.error (.invalidArgument .rfLevel)))) ∧
    (∀ c : Word, 4 ≤ c.toNat → exec (.rfldec c) s = .next (s.respond (.error (.invalidArgument .code)))) ∧
    (∀ v : Bool, exec (.lspenc v) s = .next (s.respond (.ok (.word (BitVec.ofNat 32 (3 * v.toNat))))) ∧
      exec (.lspdec (BitVec.ofNat 32 (3 * v.toNat))) s = .next (s.respond (.ok (.bool v)))) ∧
    (∀ r : Word, 1 ≤ r.toNat → r.toNat ≤ 2 →
      exec (.lspdec r) s = .next (s.respond (.error (.reservedCode .lowSpur r)))) ∧
    (∀ r : Word, 4 ≤ r.toNat → exec (.lspdec r) s = .next (s.respond (.error (.invalidArgument .code))))

/-! ## Projections (spec/45_controller_projections.md section 1) -/

/-- R210, R212: GETFS answers the four fields as read, GETOPT those of Register2; ReservedCode for a divider code 5 to 7 and for a low_spur
of 1 or 2. -/
def Obligations.ProjectionsReadTheFields : Prop :=
  ∀ (x : RegBlock) (s : State),
    (x.r4.toNat / 2 ^ 20 % 8 < 5 → exec (.getfs x) s = .next (s.respond (.ok (.setting
      { ncount := fieldOf x.r0 15 16, frac := fieldOf x.r0 3 12, mod := fieldOf x.r1 3 12,
        dbf := BitVec.ofNat 32 (2 ^ (x.r4.toNat / 2 ^ 20 % 8)) })))) ∧
    (5 ≤ x.r4.toNat / 2 ^ 20 % 8 → exec (.getfs x) s =
      .next (s.respond (.error (.reservedCode .dividerSelect (fieldOf x.r4 20 3))))) ∧
    (∀ v : Bool, x.r2.toNat / 2 ^ 29 % 4 = 3 * v.toNat → exec (.getopt x) s = .next (s.respond (.ok (.options
      { doubleRef := decide (x.r2.toNat / 2 ^ 25 % 2 = 1), halfRef := decide (x.r2.toNat / 2 ^ 24 % 2 = 1),
        r := fieldOf x.r2 14 10, lowSpur := v })))) ∧
    (x.r2.toNat / 2 ^ 29 % 4 = 1 ∨ x.r2.toNat / 2 ^ 29 % 4 = 2 → exec (.getopt x) s =
      .next (s.respond (.error (.reservedCode .lowSpur (fieldOf x.r2 29 2)))))

/-- R211: SETFS tests ncount, then frac, then mod, then dbf; the first that fails is the InvalidArgument, and no block is answered (R257). A
legal setting changes the fields ncount, frac, mod and divider_select and no other bit, and GETFS reads it back. `frac < mod` is no
condition. -/
def Obligations.SetfsChangesOnlyItsFields : Prop :=
  (∀ (x : RegBlock) (fs : FrequencySetting) (c : Nat) (s : State), fs.ncount.toNat < 65536 → fs.frac.toNat < 4096 →
    fs.mod.toNat < 4096 → fs.mod ≠ 0 → c < 5 → fs.dbf.toNat = 2 ^ c →
    ∃ x' : RegBlock, exec (.setfs x fs) s = .next (s.respond (.ok (.block x'))) ∧
      x'.r2 = x.r2 ∧ x'.r3 = x.r3 ∧ x'.r5 = x.r5 ∧
      (∀ i < 32, x'.r0.getLsbD i = if 15 ≤ i ∧ i ≤ 30 then fs.ncount.getLsbD (i - 15)
        else if 3 ≤ i ∧ i ≤ 14 then fs.frac.getLsbD (i - 3) else x.r0.getLsbD i) ∧
      (∀ i < 32, x'.r1.getLsbD i = if 3 ≤ i ∧ i ≤ 14 then fs.mod.getLsbD (i - 3) else x.r1.getLsbD i) ∧
      (∀ i < 32, x'.r4.getLsbD i = if 20 ≤ i ∧ i ≤ 22 then c.testBit (i - 20) else x.r4.getLsbD i) ∧
      exec (.getfs x') s = .next (s.respond (.ok (.setting fs)))) ∧
  (∀ (x : RegBlock) (fs : FrequencySetting) (s : State),
    (65536 ≤ fs.ncount.toNat → exec (.setfs x fs) s = .next (s.respond (.error (.invalidArgument (.field .ncount))))) ∧
    (fs.ncount.toNat < 65536 → 4096 ≤ fs.frac.toNat →
      exec (.setfs x fs) s = .next (s.respond (.error (.invalidArgument (.field .frac))))) ∧
    (fs.ncount.toNat < 65536 → fs.frac.toNat < 4096 → (4096 ≤ fs.mod.toNat ∨ fs.mod = 0) →
      exec (.setfs x fs) s = .next (s.respond (.error (.invalidArgument (.field .mod))))) ∧
    (fs.ncount.toNat < 65536 → fs.frac.toNat < 4096 → fs.mod.toNat < 4096 → fs.mod ≠ 0 →
      (∀ c < 5, fs.dbf.toNat ≠ 2 ^ c) →
      exec (.setfs x fs) s = .next (s.respond (.error (.invalidArgument .dbf)))))

/-- R213: SETOPT refuses an `r` of more than 10 bits; otherwise only bits 30:29 and 25:14 of Register2 change, and GETOPT reads the
options back. -/
def Obligations.SetoptChangesOnlyItsFields : Prop :=
  ∀ (x : RegBlock) (o : Options) (s : State),
    (1024 ≤ o.r.toNat → exec (.setopt x o) s = .next (s.respond (.error (.invalidArgument (.field .r))))) ∧
    (o.r.toNat < 1024 → ∃ w : Word, exec (.setopt x o) s = .next (s.respond (.ok (.block { x with r2 := w }))) ∧
      (∀ i < 32, w.getLsbD i = if 29 ≤ i ∧ i ≤ 30 then o.lowSpur else if i = 25 then o.doubleRef
        else if i = 24 then o.halfRef else if 14 ≤ i ∧ i ≤ 23 then o.r.getLsbD (i - 14) else x.r2.getLsbD i) ∧
      exec (.getopt { x with r2 := w }) s = .next (s.respond (.ok (.options o))))

/-- R214, R215: the RF level is the code in bits 4:3 of Register4; SETRFL changes only them, refuses every level outside the
four, and GETRFL reads the level back. -/
def Obligations.RfLevelProjection : Prop :=
  (∀ (x : RegBlock) (s : State), ∃ l : SWord, exec (.getrfl x) s = .next (s.respond (.ok (.level l))) ∧
    l.toInt = 3 * ((x.r4.toNat / 2 ^ 3 % 4 : Nat) : Int) - 4) ∧
  (∀ (x : RegBlock) (l : SWord) (c : Nat) (s : State), c < 4 → l.toInt = 3 * (c : Int) - 4 →
    ∃ w : Word, exec (.setrfl x l) s = .next (s.respond (.ok (.block { x with r4 := w }))) ∧
      (∀ i < 32, w.getLsbD i = if 3 ≤ i ∧ i ≤ 4 then c.testBit (i - 3) else x.r4.getLsbD i) ∧
      exec (.getrfl { x with r4 := w }) s = .next (s.respond (.ok (.level l)))) ∧
  (∀ (x : RegBlock) (l : SWord) (s : State), (∀ c : Nat, c < 4 → l.toInt ≠ 3 * (c : Int) - 4) →
    exec (.setrfl x l) s = .next (s.respond (.error (.invalidArgument .rfLevel))))

/-- R22: no operation changes an unmapped bit of a register image it was given: the blocks that SETFS, SETOPT and SETRFL answer hold the
unmapped bits of their operand. -/
def Obligations.UnmappedBitsArePreserved : Prop :=
  ∀ (x x' : RegBlock) (s : State),
    (∀ fs, exec (.setfs x fs) s = .next (s.respond (.ok (.block x'))) → unmappedBits x' = unmappedBits x) ∧
    (∀ o, exec (.setopt x o) s = .next (s.respond (.ok (.block x'))) → unmappedBits x' = unmappedBits x) ∧
    (∀ l, exec (.setrfl x l) s = .next (s.respond (.ok (.block x'))) → unmappedBits x' = unmappedBits x)

/-! ## Fraction reducer (spec/44_fraction_reducer.md) -/

/-- R200, R201: GCD answers the greatest common divisor, `GCD(a, 0) = a` and `GCD(0, 0) = 0` among its values; REDUCE divides both operands
by it, or answers (0, 1) when either is 0. -/
def Obligations.GcdAndReduce : Prop :=
  (∀ (a b : Word) (s : State), ∃ g : Word, exec (.gcd a b) s = .next (s.respond (.ok (.word g))) ∧
    g.toNat ∣ a.toNat ∧ g.toNat ∣ b.toNat ∧ ∀ d : Nat, d ∣ a.toNat → d ∣ b.toNat → d ∣ g.toNat) ∧
  (∀ (f m : Word) (s : State),
    (f ≠ 0 → m ≠ 0 → ∃ f' m' g : Word, exec (.reduce f m) s = .next (s.respond (.ok (.fraction f' m'))) ∧
      exec (.gcd f m) s = .next (s.respond (.ok (.word g))) ∧
      f'.toNat * g.toNat = f.toNat ∧ m'.toNat * g.toNat = m.toNat ∧ g ≠ 0) ∧
    ((f = 0 ∨ m = 0) → exec (.reduce f m) s = .next (s.respond (.ok (.fraction 0 1)))))

/-- R202: the six guarantees of REDUCE. -/
def Obligations.ReduceGuarantees : Prop :=
  ∀ (f m : Word) (s : State), ∃ f' m' : Word, exec (.reduce f m) s = .next (s.respond (.ok (.fraction f' m'))) ∧
    1 ≤ m'.toNat ∧ Nat.Coprime f'.toNat m'.toNat ∧ (f' = 0 → m' = 1) ∧
    (f ≠ 0 → m ≠ 0 → f'.toNat * m.toNat = f.toNat * m'.toNat ∧ 1 ≤ f'.toNat ∧ f'.toNat ≤ f.toNat ∧
      m'.toNat ≤ m.toNat ∧ (f'.toNat < m'.toNat ↔ f.toNat < m.toNat)) ∧
    exec (.reduce f' m') s = .next (s.respond (.ok (.fraction f' m'))) ∧
    (f.toNat < 4096 → m.toNat < 4096 → f'.toNat < 4096 ∧ m'.toNat < 4096)

/-! ## Command protocol (spec/43_command_protocol.md) -/

/-- R170: MKADDR answers the base address, with bit 3 set for channel B of a per-channel command; a per-channel command without an
id is InvalidArgument, and a shared one ignores the id. -/
def Obligations.MkaddrFollowsTheCommandTable : Prop :=
  ∀ (c : Command) (base : Byte) (per : Bool) (n : Nat) (s : State), (c, base, per, n) ∈ commandTable →
    (∀ id : ChannelId, exec (.mkaddr c (some id)) s =
      .next (s.respond (.ok (.byte (if per then channelAddress base id else base))))) ∧
    exec (.mkaddr c none) s =
      .next (s.respond (if per then .error (.invalidArgument .missingId) else .ok (.byte base)))

/-- XWRITE, every case. The responses are R171's: the frame is sent once; a short write or a missing byte is TransportError, a byte
other than ACK is ProtocolError. What the device then holds is the model's, after R53 and R260: as it was after a byte other than
ACK, and after a short write (log entry 13); without an acknowledgement the old items or those with the write applied, and after ACK
those with the write applied or what the draw has (log entries 4, 6 and 7); any device where the frame writes no item (log entry 18). -/
def Obligations.XwriteOutcomes : Prop :=
  ∀ (a : Byte) (p : Bytes) (s : State),
    (accepted (nextDraw s) (p.length + 2) < p.length + 2 → ∃ t, exec (.xwrite a p) s = .next t ∧
      Exchanged s t (frameOf a p)
        (.error (.transport .txWrite (p.length + 2) (accepted (nextDraw s) (p.length + 2)))) s.device) ∧
    (WriteAnswered s a p [] → ∃ t, exec (.xwrite a p) s = .next t ∧
      Exchanged s t (frameOf a p) (.error (.transport .rxRead 1 0))
        (if (nextDraw s).applied then (storeAt s.device a p).getD ((nextDraw s).drift.getD s.device) else s.device)) ∧
    (∀ b : Byte, b ≠ 0x06 → WriteAnswered s a p [b] → ∃ t, exec (.xwrite a p) s = .next t ∧
      Exchanged s t (frameOf a p) (.error (.protocol b)) s.device) ∧
    (WriteAnswered s a p [0x06] → ∃ t, exec (.xwrite a p) s = .next t ∧
      Exchanged s t (frameOf a p) (.ok .none) ((nextDraw s).drift.getD ((storeAt s.device a p).getD s.device)))

/-- XREAD, every case. The responses are R172's: a short write, a short response (never checksummed), a wrong checksum (no payload), a
valid response. That the device is as it was after a short write, and then as the draw has it, is the model's (log entries 4
and 13). -/
def Obligations.XreadOutcomes : Prop :=
  ∀ (a : Byte) (n : Nat) (s : State),
    (accepted (nextDraw s) 1 = 0 → ∃ t, exec (.xread a n) s = .next t ∧
      Exchanged s t [a] (.error (.transport .txWrite 1 0)) s.device) ∧
    (∀ rx : Bytes, rx.length < n + 1 → ReadAnswered s a n rx → ∃ t, exec (.xread a n) s = .next t ∧
      Exchanged s t [a] (.error (.transport .rxRead (n + 1) rx.length)) (deviceAtRead s)) ∧
    (∀ (p : Bytes) (c : Byte), p.length = n → ReadAnswered s a n (p ++ [c]) → ∃ t, exec (.xread a n) s = .next t ∧
      Exchanged s t [a] (if c = sumByte p then .ok (.bytes p) else .error (.checksum (sumByte p) c)) (deviceAtRead s))

/-- R175, R177, R179, R181, R183, R184: each write command is the XWRITE of its address and payload; a SET_LABEL payload that has not 16
bytes is InvalidArgument and nothing is sent. -/
def Obligations.WriteCommandsAreWriteExchanges : Prop :=
  ∀ (id : ChannelId) (s : State),
    (∀ x, exec (.setRegs id x) s = exec (.xwrite (channelAddress 0x00 id) (blockBytes x)) s) ∧
    (∀ l : Bytes, exec (.setLabel id l) s = if l.length = 16 then exec (.xwrite (channelAddress 0x02 id) l) s
      else .next (s.respond (.error (.invalidArgument .length)))) ∧
    (∀ lo hi : Half, exec (.setVco id lo hi) s =
      exec (.xwrite (channelAddress 0x03 id) (bigEndian 2 lo.toNat ++ bigEndian 2 hi.toNat)) s) ∧
    (∀ hz : Word, exec (.setRef hz) s = exec (.xwrite 0x01 (bigEndian 4 hz.toNat)) s) ∧
    (∀ v : Bool, exec (.setRefsel v) s = exec (.xwrite 0x06 [BitVec.ofNat 8 v.toNat]) s) ∧
    exec .flash s = exec (.xwrite 0x40 []) s

/-- Each write command completes when its frame is taken whole and 0x06 comes back. What the device then holds is the model's reading: the
item written (R67, R33), unless the draw has it otherwise (N13, log entries 4, 6 and 7). -/
def Obligations.AcknowledgedWritesComplete : Prop :=
  (∀ (id : ChannelId) (x : RegBlock) (s : State),
    WriteAnswered s (channelAddress 0x00 id) (blockBytes x) [0x06] → ∃ t, exec (.setRegs id x) s = .next t ∧
      Exchanged s t (frameOf (channelAddress 0x00 id) (blockBytes x)) (.ok .none)
        ((nextDraw s).drift.getD (s.device.setBank id { s.device.bank id with regs := x }))) ∧
  (∀ (id : ChannelId) (l : Bytes) (s : State), l.length = 16 →
    WriteAnswered s (channelAddress 0x02 id) l [0x06] → ∃ t dev, exec (.setLabel id l) s = .next t ∧
      Exchanged s t (frameOf (channelAddress 0x02 id) l) (.ok .none) ((nextDraw s).drift.getD dev) ∧
      (dev.bank id).label.toList = l ∧ dev = s.device.setBank id { s.device.bank id with label := (dev.bank id).label }) ∧
  (∀ (id : ChannelId) (lo hi : Half) (s : State),
    WriteAnswered s (channelAddress 0x03 id) (vcoBytes ⟨lo, hi⟩) [0x06] → ∃ t, exec (.setVco id lo hi) s = .next t ∧
      Exchanged s t (frameOf (channelAddress 0x03 id) (vcoBytes ⟨lo, hi⟩)) (.ok .none)
        ((nextDraw s).drift.getD (s.device.setBank id { s.device.bank id with vco := ⟨lo, hi⟩ }))) ∧
  (∀ (hz : Word) (s : State), WriteAnswered s 0x01 (bigEndian 4 hz.toNat) [0x06] → ∃ t,
    exec (.setRef hz) s = .next t ∧ Exchanged s t (frameOf 0x01 (bigEndian 4 hz.toNat)) (.ok .none)
      ((nextDraw s).drift.getD { s.device with reference := hz })) ∧
  (∀ (v : Bool) (s : State), WriteAnswered s 0x06 [BitVec.ofNat 8 v.toNat] [0x06] → ∃ t dev,
    exec (.setRefsel v) s = .next t ∧
      Exchanged s t (frameOf 0x06 [BitVec.ofNat 8 v.toNat]) (.ok .none) ((nextDraw s).drift.getD dev) ∧
      dev = { s.device with status := dev.status } ∧
      (∀ i < 8, dev.status.getLsbD i = if i = 0 then v else s.device.status.getLsbD i)) ∧
  (∀ s : State, WriteAnswered s 0x40 [] [0x06] → ∃ t, exec .flash s = .next t ∧
    Exchanged s t [0x40, 0x40] (.ok .none)
      ((nextDraw s).drift.getD { s.device with nvram := ⟨s.device.bankA, s.device.bankB⟩ }))

/-- The values and errors are those of R174, R176, R178, R180 and R182: each read command sends its address byte alone and answers the value
of a valid response; where its XREAD answers an error, the command answers that error in the same next state. That the device is then as
the draw has it is the model's (log entries 4 and 13). -/
def Obligations.ReadCommandsAnswerValidResponses : Prop :=
  (∀ (id : ChannelId) (x : RegBlock) (s : State),
    ReadAnswered s (channelAddress 0x80 id) 24 (replyOf (blockBytes x)) → ∃ t, exec (.getRegs id) s = .next t ∧
      Exchanged s t [channelAddress 0x80 id] (.ok (.block x)) (deviceAtRead s)) ∧
  (∀ (id : ChannelId) (l : Bytes) (s : State), l.length = 16 →
    ReadAnswered s (channelAddress 0x82 id) 16 (replyOf l) → ∃ t, exec (.getLabel id) s = .next t ∧
      Exchanged s t [channelAddress 0x82 id] (.ok (.bytes l)) (deviceAtRead s)) ∧
  (∀ (id : ChannelId) (v : VcoRange) (s : State),
    ReadAnswered s (channelAddress 0x83 id) 4 (replyOf (vcoBytes v)) → ∃ t, exec (.getVco id) s = .next t ∧
      Exchanged s t [channelAddress 0x83 id] (.ok (.vco v)) (deviceAtRead s)) ∧
  (∀ (hz : Word) (s : State), ReadAnswered s 0x81 4 (replyOf (bigEndian 4 hz.toNat)) → ∃ t,
    exec .getRef s = .next t ∧ Exchanged s t [0x81] (.ok (.word hz)) (deviceAtRead s)) ∧
  (∀ (id : ChannelId) (st : Byte) (s : State), ReadAnswered s (channelAddress 0x86 id) 1 [st, st] → ∃ t,
    exec (.getStatus id) s = .next t ∧ Exchanged s t [channelAddress 0x86 id] (.ok (.byte st)) (deviceAtRead s)) ∧
  (∀ (s t : State) (e : Error) (id : ChannelId), t.responses = s.responses ++ [.error e] →
    (exec (.xread (channelAddress 0x80 id) 24) s = .next t → exec (.getRegs id) s = .next t) ∧
    (exec (.xread (channelAddress 0x82 id) 16) s = .next t → exec (.getLabel id) s = .next t) ∧
    (exec (.xread (channelAddress 0x83 id) 4) s = .next t → exec (.getVco id) s = .next t) ∧
    (exec (.xread 0x81 4) s = .next t → exec .getRef s = .next t) ∧
    (exec (.xread (channelAddress 0x86 id) 1) s = .next t → exec (.getStatus id) s = .next t))

/-- R186, R237, R258, R260: a read-modify-write that fails in a read or in its change sends no write frame. `setOptions` and `setRfLevel`
after a failed GET_REGS answer its error, and only the request byte was sent. `setFrequency` ends at the first of its four reads, or at
the decoding of the options, that fails, with that error and in that state. Where it answers InvalidArgument (SETFS refused the
setting, or the arithmetic did) or any error but the two a write exchange can end in, it sent request bytes only. -/
def Obligations.FailedReadWritesNothing : Prop :=
  (∀ (s t : State) (e : Error) (id : ChannelId) (o : Options) (l : SWord), exec (.getRegs id) s = .next t →
    t.responses = s.responses ++ [.error e] →
    (o.r.toNat < 1024 → step (s.pushRequest (.call (.setOptions id o))) = .next t) ∧
    (l.toInt = -4 ∨ l.toInt = -1 ∨ l.toInt = 2 ∨ l.toInt = 5 →
      step (s.pushRequest (.call (.setRfLevel id l))) = .next t) ∧
    t.sent = s.sent ++ [[channelAddress 0x80 id]]) ∧
  (∀ (s s₁ s₂ s₃ t : State) (e : Error) (id : ChannelId) (f : Rat) (sp : Option Rat) (v : VcoRange) (hz : Word)
    (x : RegBlock) (o : Options), 0 < sp.getD 10 →
    (exec (.getVco id) s = .next (t.respond (.error e)) →
      step (s.pushRequest (.call (.setFrequency id f sp))) = .next (t.respond (.error e))) ∧
    (exec (.getVco id) s = .next (s₁.respond (.ok (.vco v))) → exec .getRef s₁ = .next (t.respond (.error e)) →
      step (s.pushRequest (.call (.setFrequency id f sp))) = .next (t.respond (.error e))) ∧
    (exec (.getVco id) s = .next (s₁.respond (.ok (.vco v))) →
      exec .getRef s₁ = .next (s₂.respond (.ok (.word hz))) →
      exec (.getRegs id) s₂ = .next (t.respond (.error e)) →
      step (s.pushRequest (.call (.setFrequency id f sp))) = .next (t.respond (.error e))) ∧
    (exec (.getVco id) s = .next (s₁.respond (.ok (.vco v))) →
      exec .getRef s₁ = .next (s₂.respond (.ok (.word hz))) →
      exec (.getRegs id) s₂ = .next (t.respond (.ok (.block x))) →
      exec (.getopt x) t = .next (t.respond (.error e)) →
      step (s.pushRequest (.call (.setFrequency id f sp))) = .next (t.respond (.error e))) ∧
    (ReadForSetFrequency s id v hz o s₃ → effectiveFrequency hz o ≠ 0 → 0 ≤ f →
      exec (.getRegs id) s₃ = .next (t.respond (.error e)) →
      step (s.pushRequest (.call (.setFrequency id f sp))) = .next (t.respond (.error e)))) ∧
  (∀ (s t : State) (e : Error) (id : ChannelId) (f : Rat) (sp : Option Rat),
    step (s.pushRequest (.call (.setFrequency id f sp))) = .next t → t.responses = s.responses ++ [.error e] →
    errorCode e ≠ 1 → errorCode e ≠ 3 → ∃ frames, t.sent = s.sent ++ frames ∧ ∀ g ∈ frames, g.length = 1)

/-! ## Controller functions (spec/45_controller_projections.md, spec/46_host_pll_math.md) -/

/-- R219, R221, R235: a bad argument of `setRfLevel`, `setOptions` or `setFrequency` is answered before any exchange. -/
def Obligations.ArgumentErrorsPrecedeTheWire : Prop :=
  ∀ (s : State) (id : ChannelId),
    (∀ l : SWord, l.toInt ≠ -4 → l.toInt ≠ -1 → l.toInt ≠ 2 → l.toInt ≠ 5 →
      step (s.pushRequest (.call (.setRfLevel id l))) = .next (s.respond (.error (.invalidArgument .rfLevel)))) ∧
    (∀ o : Options, 1024 ≤ o.r.toNat →
      step (s.pushRequest (.call (.setOptions id o))) = .next (s.respond (.error (.invalidArgument (.field .r))))) ∧
    (∀ f sp : Rat, sp ≤ 0 → step (s.pushRequest (.call (.setFrequency id f (some sp)))) =
      .next (s.respond (.error (.invalidArgument .spacing))))

/-- R216, R218, R220, R222, R224, R226, R227: each getter makes its one read exchange and, where an attached device replies (R187,
log entry 6), answers the item the device holds. R231 with R230: `getFrequency` makes three, and answers `(ncount + frac/mod) * EPDF / dbf` of what the
device holds, over exact rationals (log entry 11); a `mod` of 0 is refused, and a reserved code ends it. -/
def Obligations.GettersAnswerTheDevice : Prop :=
  (∀ (s : State) (id : ChannelId), IdealLink s 1 →
    (∃ t, step (s.pushRequest (.call .getReference)) = .next t ∧
      Exchanged s t [0x81] (.ok (.word s.device.reference)) s.device) ∧
    (∃ t, step (s.pushRequest (.call (.getVcoRange id))) = .next t ∧
      Exchanged s t [channelAddress 0x83 id] (.ok (.vco (s.device.bank id).vco)) s.device) ∧
    (∃ t, step (s.pushRequest (.call (.getLabel id))) = .next t ∧
      Exchanged s t [channelAddress 0x82 id] (.ok (.bytes (s.device.bank id).label.toList)) s.device) ∧
    (∃ t, step (s.pushRequest (.call .getRefSelect)) = .next t ∧
      Exchanged s t [0x86] (.ok (.bool (decide (s.device.status.toNat % 2 = 1)))) s.device) ∧
    (∃ t, step (s.pushRequest (.call (.getPhaseLock id))) = .next t ∧
      Exchanged s t [channelAddress 0x86 id]
        (.ok (.bool (s.device.status.getLsbD (match id with | .a => 5 | .b => 4)))) s.device) ∧
    (∀ l : SWord, exec (.getrfl (s.device.bank id).regs) s = .next (s.respond (.ok (.level l))) →
      ∃ t, step (s.pushRequest (.call (.getRfLevel id))) = .next t ∧
        Exchanged s t [channelAddress 0x80 id] (.ok (.level l)) s.device) ∧
    (∀ r : Response, exec (.getopt (s.device.bank id).regs) s = .next (s.respond r) →
      ∃ t, step (s.pushRequest (.call (.getOptions id))) = .next t ∧
        Exchanged s t [channelAddress 0x80 id] r s.device)) ∧
  (∀ (s : State) (id : ChannelId) (e : Error), IdealLink s 1 →
    exec (.getfs (s.device.bank id).regs) s = .next (s.respond (.error e)) →
    ∃ t, step (s.pushRequest (.call (.getFrequency id))) = .next t ∧
      Exchanged s t [channelAddress 0x80 id] (.error e) s.device) ∧
  (∀ (s : State) (id : ChannelId) (fs : FrequencySetting), IdealLink s 3 →
    exec (.getfs (s.device.bank id).regs) s = .next (s.respond (.ok (.setting fs))) →
    ∃ t r, step (s.pushRequest (.call (.getFrequency id))) = .next t ∧ t.responses = s.responses ++ [r] ∧
      t.sent = s.sent ++ [[channelAddress 0x80 id], [0x81], [channelAddress 0x80 id]] ∧ t.device = s.device ∧
      (∀ e, exec (.getopt (s.device.bank id).regs) s = .next (s.respond (.error e)) → r = .error e) ∧
      (∀ o, exec (.getopt (s.device.bank id).regs) s = .next (s.respond (.ok (.options o))) →
        r = if fs.mod = 0 then .error (.invalidArgument .modZero)
          else .ok (.frequency (((fs.ncount.toNat : Rat) + (fs.frac.toNat : Rat) / (fs.mod.toNat : Rat)) *
            effectiveFrequency s.device.reference o / (fs.dbf.toNat : Rat)))))

/-- R217, R223, R225, R228, R229: each direct setter makes its one write exchange and, where an attached device acknowledges (R187),
completes; `setLabel` fits a label of any length. The device then holds the item, and all else as it was (log entries 6 and 7). -/
def Obligations.DirectSettersWriteOnce : Prop :=
  ∀ (s : State) (id : ChannelId), IdealLink s 1 →
    (∀ hz : Word, ∃ t, step (s.pushRequest (.call (.setReference hz))) = .next t ∧
      Exchanged s t (frameOf 0x01 (bigEndian 4 hz.toNat)) (.ok .none) { s.device with reference := hz }) ∧
    (∀ v : VcoRange, ∃ t, step (s.pushRequest (.call (.setVcoRange id v))) = .next t ∧
      Exchanged s t (frameOf (channelAddress 0x03 id) (vcoBytes v)) (.ok .none)
        (s.device.setBank id { s.device.bank id with vco := v })) ∧
    (∀ v : Bool, ∃ t dev, step (s.pushRequest (.call (.setRefSelect v))) = .next t ∧
      Exchanged s t (frameOf 0x06 [BitVec.ofNat 8 v.toNat]) (.ok .none) dev ∧
      dev = { s.device with status := dev.status } ∧
      ∀ i < 8, dev.status.getLsbD i = if i = 0 then v else s.device.status.getLsbD i) ∧
    (∀ label : Bytes, ∃ t dev l, step (s.pushRequest (.call (.setLabel id label))) = .next t ∧
      Exchanged s t (frameOf (channelAddress 0x02 id) l) (.ok .none) dev ∧
      dev = s.device.setBank id { s.device.bank id with label := (dev.bank id).label } ∧
      (dev.bank id).label.toList = l ∧ ∀ i < 16, l.getD i 0 = label.getD i 0) ∧
    (∃ t, step (s.pushRequest (.call .flash)) = .next t ∧
      Exchanged s t [0x40, 0x40] (.ok .none) { s.device with nvram := ⟨s.device.bankA, s.device.bankB⟩ })

/-- The read-modify-write setters under R187's assumption (R219, R221): one read and one write exchange, and the device's registers
are those of SETRFL and SETOPT on the block just read. -/
def Obligations.RmwSettersRewriteTheBlock : Prop :=
  ∀ (s : State) (id : ChannelId) (x' : RegBlock), IdealLink s 2 →
    (∀ l : SWord, exec (.setrfl (s.device.bank id).regs l) s = .next (s.respond (.ok (.block x'))) →
      ∃ t, step (s.pushRequest (.call (.setRfLevel id l))) = .next t ∧ t.responses = s.responses ++ [.ok .none] ∧
        t.sent = s.sent ++ [[channelAddress 0x80 id], frameOf (channelAddress 0x00 id) (blockBytes x')] ∧
        t.device = s.device.setBank id { s.device.bank id with regs := x' }) ∧
    (∀ o : Options, exec (.setopt (s.device.bank id).regs o) s = .next (s.respond (.ok (.block x'))) →
      ∃ t, step (s.pushRequest (.call (.setOptions id o))) = .next t ∧ t.responses = s.responses ++ [.ok .none] ∧
        t.sent = s.sent ++ [[channelAddress 0x80 id], frameOf (channelAddress 0x00 id) (blockBytes x')] ∧
        t.device = s.device.setBank id { s.device.bank id with regs := x' })

/-- The NACK scenario of R53 and R187 for `setOptions`, its read answered by an attached device (the assumption of R187, log entry 6): a
write answered 0x15 reports ProtocolError, and the device is as it was. -/
def Obligations.NackLeavesTheRegisters : Prop :=
  ∀ (s : State) (id : ChannelId) (o : Options) (d : Draw) (rest : List Draw), o.r.toNat < 1024 →
    s.link = idealDraw :: d :: rest → d.accepted = none → d.answer = .bytes [0x15] →
    ∃ t, step (s.pushRequest (.call (.setOptions id o))) = .next t ∧
      t.responses = s.responses ++ [.error (.protocol 0x15)] ∧ t.device = s.device ∧ t.link = rest

/-- R233: the output divider is the smallest of 1, 2, 4, 8, 16 for which `freq * dbf > low`, or 16 if there is none. -/
def Obligations.DividerIsTheSmallestThatFits : Prop :=
  ∀ (f : Rat) (low : Half), ∃ c : Nat, c ≤ 4 ∧ chooseDivider f low = 2 ^ c ∧
    (∀ k < c, f * ((2 ^ k : Nat) : Rat) ≤ ((low.toNat : Nat) : Rat)) ∧
    (c < 4 → ((low.toNat : Nat) : Rat) < f * ((2 ^ c : Nat) : Rat))

/-- R232, R237 under R187's assumption: a `setFrequency` that completes made the five exchanges in the order of decision D28, and
left every register bit outside ncount, frac, mod and divider_select as it was. -/
def Obligations.SetFrequencyRewritesOnlyItsFields : Prop :=
  ∀ (s t : State) (id : ChannelId) (f : Rat) (sp : Option Rat), IdealLink s 5 →
    step (s.pushRequest (.call (.setFrequency id f sp))) = .next t → t.responses = s.responses ++ [.ok .none] →
    ∃ x' : RegBlock, t.device = s.device.setBank id { s.device.bank id with regs := x' } ∧
      t.sent = s.sent ++ [[channelAddress 0x83 id], [0x81], [channelAddress 0x80 id], [channelAddress 0x80 id],
        frameOf (channelAddress 0x00 id) (blockBytes x')] ∧
      x'.r2 = (s.device.bank id).regs.r2 ∧ x'.r3 = (s.device.bank id).regs.r3 ∧ x'.r5 = (s.device.bank id).regs.r5 ∧
      x'.r0 &&& 0x80000007 = (s.device.bank id).regs.r0 &&& 0x80000007 ∧
      x'.r1 &&& 0xFFFF8007 = (s.device.bank id).regs.r1 &&& 0xFFFF8007 ∧
      x'.r4 &&& 0xFF8FFFFF = (s.device.bank id).regs.r4 &&& 0xFF8FFFFF

/-- The round trip of R240 under R187's assumption (log entry 6), over exact rationals (log entry 11), for every spacing, those so small
that the numbers exceed 32 bits among them (log entry 10), and either rounding: after a `setFrequency` that completes,
`getFrequency` answers a value within EPDF/dbf of the one set. -/
def Obligations.FrequencyRoundTripIsWithinTheBound : Prop :=
  ∀ (s t : State) (id : ChannelId) (f : Rat) (sp : Option Rat) (o : Options), IdealLink s 8 →
    step (s.pushRequest (.call (.setFrequency id f sp))) = .next t → t.responses = s.responses ++ [.ok .none] →
    exec (.getopt (s.device.bank id).regs) s = .next (s.respond (.ok (.options o))) →
    ∃ u g, step (t.pushRequest (.call (.getFrequency id))) = .next u ∧
      u.responses = t.responses ++ [.ok (.frequency g)] ∧
      |g - f| ≤ epdfOf s.device.reference o / ((chooseDivider f (s.device.bank id).vco.low : Nat) : Rat)

/-- The scenario of R240 for every register content with those options: reference 10 MHz, VCO low 2300, `setFrequency(A, 1000.0)`
writes (400, 0, 1, 4), and `getFrequency(A)` then answers 1000. -/
def Obligations.SetFrequencyScenario : Prop :=
  ∀ s : State, IdealLink s 8 → s.device.reference = 10000000 → s.device.bankA.vco.low = 2300 →
    exec (.getopt s.device.bankA.regs) s = .next (s.respond (.ok (.options ⟨false, false, 0, false⟩))) →
    ∃ t u, step (s.pushRequest (.call (.setFrequency .a 1000 none))) = .next t ∧
      exec (.getfs t.device.bankA.regs) s = .next (s.respond (.ok (.setting ⟨400, 0, 1, 4⟩))) ∧
      step (t.pushRequest (.call (.getFrequency .a))) = .next u ∧
      u.responses = s.responses ++ [.ok .none, .ok (.frequency 1000)]

/-- R230, R234 to R238: what `setFrequency` computes from what it read, in any run, for both values of ROUND_HALF_UP, over exact rationals
(log entry 11). An EPDF of 0 and a negative `vco` are refused after the three reads and before the fourth (R234; that the negative one
is found only there is log entry 12). Otherwise `ncount` is `floor(vco / EPDF)`, `frac` and `mod` are the rounded quotients, reduced by
their greatest common divisor, as they are above 32 bits too (log entry 10); after the fourth read a member too large for its field is
InvalidArgument, with four request bytes sent and nothing written, and any other setting is written: SETFS of the block just read, by
SET_REGS. -/
def Obligations.SetFrequencyWritesTheComputedSetting : Prop :=
  ∀ (s s₃ : State) (id : ChannelId) (f : Rat) (sp : Option Rat) (v : VcoRange) (hz : Word) (o : Options),
    0 < sp.getD 10 → ReadForSetFrequency s id v hz o s₃ →
    s₃.sent = s.sent ++ [[channelAddress 0x83 id], [0x81], [channelAddress 0x80 id]] ∧
    (effectiveFrequency hz o = 0 → step (s.pushRequest (.call (.setFrequency id f sp))) =
      .next (s₃.respond (.error (.invalidArgument .epdfZero)))) ∧
    (effectiveFrequency hz o ≠ 0 → f < 0 → step (s.pushRequest (.call (.setFrequency id f sp))) =
      .next (s₃.respond (.error (.invalidArgument .vcoNegative)))) ∧
    (effectiveFrequency hz o ≠ 0 → 0 ≤ f →
      ∃ ncount frac mod frac' mod' : Nat, ∃ vco : Rat, vco = f * ((chooseDivider f v.low : Nat) : Rat) ∧
        (ncount : Rat) * effectiveFrequency hz o ≤ vco ∧ vco < ((ncount : Rat) + 1) * effectiveFrequency hz o ∧
        IsRounded s.roundHalfUp ((vco - (ncount : Rat) * effectiveFrequency hz o) / sp.getD 10) frac ∧
        IsRounded s.roundHalfUp (effectiveFrequency hz o / sp.getD 10) mod ∧
        (if frac = 0 ∨ mod = 0 then frac' = 0 ∧ mod' = 1
          else frac' * Nat.gcd frac mod = frac ∧ mod' * Nat.gcd frac mod = mod) ∧
        ∀ (x : RegBlock) (s₄ : State), exec (.getRegs id) s₃ = .next (s₄.respond (.ok (.block x))) →
          s₄.sent = s₃.sent ++ [[channelAddress 0x80 id]] ∧
          (65536 ≤ ncount → step (s.pushRequest (.call (.setFrequency id f sp))) =
            .next (s₄.respond (.error (.invalidArgument (.field .ncount))))) ∧
          (ncount < 65536 → 4096 ≤ frac' → step (s.pushRequest (.call (.setFrequency id f sp))) =
            .next (s₄.respond (.error (.invalidArgument (.field .frac))))) ∧
          (ncount < 65536 → frac' < 4096 → 4096 ≤ mod' → step (s.pushRequest (.call (.setFrequency id f sp))) =
            .next (s₄.respond (.error (.invalidArgument (.field .mod))))) ∧
          (ncount < 65536 → frac' < 4096 → mod' < 4096 → ∃ x' : RegBlock,
            exec (.setfs x ⟨BitVec.ofNat 32 ncount, BitVec.ofNat 32 frac', BitVec.ofNat 32 mod',
              BitVec.ofNat 32 (chooseDivider f v.low)⟩) s₄ = .next (s₄.respond (.ok (.block x'))) ∧
            step (s.pushRequest (.call (.setFrequency id f sp))) = exec (.setRegs id x') s₄))

/-! ## Requests and encodings (spec/30_encoding.md) -/

/-- Decode and encode agree: the decoder reads every well-formed instruction back from its request, operands and all. -/
def Obligations.DecodeReadsBackEveryEncoding : Prop :=
  ∀ i : Instr, i.wf = true → decode i.space (encode i) = .ok i

/-- The other direction: what the decoder reads from bytes is well-formed, stands in that space, and has just those bytes as its
request. -/
def Obligations.EncodeGivesBackTheBytes : Prop :=
  ∀ (sp : Space) (bs : Bytes) (i : Instr), decode sp bs = .ok i → i.wf = true ∧ i.space = sp ∧ encode i = bs

/-- Requests in the model's own form (log entry 2): the op select of R75 with operand bytes of the model's layout, or the address byte of
R66 with the payload of R67. -/
def Obligations.WrittenOutRequestsDecode : Prop :=
  decode .op [0x19, 0x21] = .ok (.strefsel 0x21) ∧
  decode .op [0x03, 0x8A] = .ok (.framer 0x8A) ∧
  decode .op [0x3C, 0, 0, 0, 250, 0, 0, 3, 0xE8] = .ok (.gcd 250 1000) ∧
  decode .command [0x88] = .ok (.getRegs .b) ∧
  decode .command [0x0B, 0x08, 0xFC, 0x11, 0x30] = .ok (.setVco .b 2300 4400) ∧
  decode .command [0x01, 0x00, 0x98, 0x96, 0x80] = .ok (.setRef 10000000) ∧
  decode .command [0x40] = .ok .flash

/-- R75: a request with an op select that names no operation is answered InvalidArgument and does nothing else. -/
def Obligations.UnassignedOpSelectIsInvalidArgument : Prop :=
  ∀ (s : State) (op : Byte) (t : Bytes) (rest : List Request), s.requests = .encoded .op (op :: t) :: rest →
    (0x09 ≤ op.toNat ∧ op.toNat ≤ 0x0F ∨ 0x1A ≤ op.toNat ∧ op.toNat ≤ 0x1F ∨ op.toNat = 0x3E ∨ op.toNat = 0x3F) →
    step s = .next ((s.present rest).respond (.error (.invalidArgument .opSelect)))

/-- Requests for the wire commands, in the model's request format (log entry 2): a payload of the wrong length is answered InvalidArgument
and nothing is sent (R43); an address byte outside the eighteen of R66 cannot be formed (R73), and is refused by name. -/
def Obligations.CommandRequestsAreChecked : Prop :=
  (∀ (s : State) (c : Command) (base : Byte) (per : Bool) (n : Nat) (id : ChannelId) (p : Bytes) (rest : List Request),
    (c, base, per, n) ∈ commandTable →
    s.requests = .encoded .command ((if per then channelAddress base id else base) :: p) :: rest →
    p.length ≠ (if base.toNat < 0x80 then n else 0) →
    step s = .next ((s.present rest).respond (.error (.invalidArgument .length)))) ∧
  (∀ (s : State) (a : Byte) (p : Bytes) (rest : List Request), s.requests = .encoded .command (a :: p) :: rest →
    a ∉ listedAddresses → step s = .refused (.unlistedAddress a))

/-! ## The machine -/

/-- A step presents the oldest request: a request that decodes to an instruction is that instruction's `exec` on the state without
the request. -/
def Obligations.StepRunsTheDecodedInstruction : Prop :=
  ∀ (s : State) (sp : Space) (bs : Bytes) (rest : List Request) (i : Instr), s.requests = .encoded sp bs :: rest →
    decode sp bs = .ok i → step s = exec i { s with requests := rest }

/-- R270, R280: with no request to present nothing happens (the model's choice for the end of a run, log entry 5). -/
def Obligations.StepWithoutRequestChangesNothing : Prop :=
  ∀ s : State, s.requests = [] → step s = .next s

/-- R278: every operation of the block terminates with a response: no instruction stops the machine in any state, and each appends
exactly one response and leaves the host's requests and ROUND_HALF_UP alone. -/
def Obligations.EveryInstructionResponds : Prop :=
  ∀ (i : Instr) (s : State), ∃ t r, exec i s = .next t ∧ t.responses = s.responses ++ [r] ∧
    t.requests = s.requests ∧ t.roundHalfUp = s.roundHalfUp

/-- R250 to R255, the table's "raised by": an instruction's response has one of the statuses the table gives it, so a ChecksumError
arises only on a read, a ProtocolError only on a write, and a ReservedCode only in decoding. -/
def Obligations.StatusesAreThoseOfTheErrorTable : Prop :=
  ∀ (i : Instr) (s t : State), exec i s = .next t →
    ∃ r, t.responses = s.responses ++ [r] ∧ statusCode r ∈ statusesOf i

/-- R20: the result of an operation other than XWRITE and XREAD is a function of its operands alone, and nothing but the response
changes. -/
def Obligations.PureOperationsIgnoreTheState : Prop :=
  ∀ i : Instr, isPure i = true → ∃ r : Response, ∀ s : State, exec i s = .next (s.respond r)

/-- R20 for the exchanges: an instruction's response and the bytes it sends are the same in any two states whose transport and device
are the same; the host's history and its parameters do not enter. -/
def Obligations.InstructionsIgnoreTheHistory : Prop :=
  ∀ (i : Instr) (s s' t t' : State), s.link = s'.link → s.draws = s'.draws → s.device = s'.device →
    exec i s = .next t → exec i s' = .next t' → ∃ (r : Response) (frames : List Bytes),
      t.responses = s.responses ++ [r] ∧ t'.responses = s'.responses ++ [r] ∧
      t.sent = s.sent ++ frames ∧ t'.sent = s'.sent ++ frames ∧ t.device = t'.device

/-- R185, R188: no exchange is retried, and none is out of order. An instruction gives TxWrite at most one byte string. What a controller
function gives it is a first part of the byte strings of its expansion (R216 to R229, R231, R232), each as often as it stands there;
what was sent stays sent. -/
def Obligations.NoExchangeIsRepeated : Prop :=
  (∀ (i : Instr) (s t : State), exec i s = .next t → ∃ frames, t.sent = s.sent ++ frames ∧ frames.length ≤ 1) ∧
  (∀ (c : Call) (s t : State), step (s.pushRequest (.call c)) = .next t → ∃ (x : RegBlock) (frames : List Bytes),
    t.sent = s.sent ++ frames ∧ frames <+: expansionFrames x c)

/-- R73: "No other address can be formed": a wire command or a controller function sends no byte string whose first byte is not one of
the eighteen of R66. -/
def Obligations.OnlyListedAddressesAreSent : Prop :=
  (∀ (i : Instr) (s t : State), i.space = .command → exec i s = .next t → ∃ frames, t.sent = s.sent ++ frames ∧
    ∀ f ∈ frames, ∃ a p, f = a :: p ∧ a ∈ listedAddresses) ∧
  (∀ (c : Call) (s t : State), step (s.pushRequest (.call c)) = .next t → ∃ frames, t.sent = s.sent ++ frames ∧
    ∀ f ∈ frames, ∃ a p, f = a :: p ∧ a ∈ listedAddresses)

/-- An invariant every step keeps (R60, R62, R92): every byte string given to TxWrite is one request byte or a write frame whose last
byte is the checksum of its address and payload. -/
def Obligations.StepKeepsFramesSent : Prop :=
  ∀ s t : State, FramesSent s → step s = .next t → FramesSent t

/-- That invariant holds after reset. -/
def Obligations.ResetHasFramesSent : Prop := FramesSent State.reset

/-- After reset the first request runs (R270: "after reset the block is ready for a request"). That the host then has no request still to present is
the model's choice (log entry 5), and so is keeping what was sent and answered, of which there is none (log entry 17). -/
def Obligations.ResetIsReady : Prop :=
  State.reset.requests = [] ∧ State.reset.responses = [] ∧ State.reset.sent = [] ∧
    ∀ v : Word, exec (.packu32 v) State.reset = .next (State.reset.respond (.ok (.bytes (bigEndian 4 v.toNat))))
end

