-- ==== Sys2Proof/Laws/State.lean ====
section
/-!
SUPPORT. One lemma per field per update of the state: `respond`, `transmit`, `present`, `pushRequest`, and an update of the device.
-/

namespace Sys2Proof.Machine

section respond
variable (s : State) (r : Response)
@[simp] theorem respond_requests : (s.respond r).requests = s.requests := rfl
@[simp] theorem respond_responses : (s.respond r).responses = s.responses ++ [r] := rfl
@[simp] theorem respond_sent : (s.respond r).sent = s.sent := rfl
@[simp] theorem respond_link : (s.respond r).link = s.link := rfl
@[simp] theorem respond_draws : (s.respond r).draws = s.draws := rfl
@[simp] theorem respond_device : (s.respond r).device = s.device := rfl
@[simp] theorem respond_roundHalfUp : (s.respond r).roundHalfUp = s.roundHalfUp := rfl
end respond

section present
variable (s : State) (rest : List Request)
@[simp] theorem present_requests : (s.present rest).requests = rest := rfl
@[simp] theorem present_responses : (s.present rest).responses = s.responses := rfl
@[simp] theorem present_sent : (s.present rest).sent = s.sent := rfl
@[simp] theorem present_link : (s.present rest).link = s.link := rfl
@[simp] theorem present_draws : (s.present rest).draws = s.draws := rfl
@[simp] theorem present_device : (s.present rest).device = s.device := rfl
@[simp] theorem present_roundHalfUp : (s.present rest).roundHalfUp = s.roundHalfUp := rfl
end present

section pushRequest
variable (s : State) (q : Request)
@[simp] theorem pushRequest_requests : (s.pushRequest q).requests = q :: s.requests := rfl
@[simp] theorem pushRequest_responses : (s.pushRequest q).responses = s.responses := rfl
@[simp] theorem pushRequest_sent : (s.pushRequest q).sent = s.sent := rfl
@[simp] theorem pushRequest_link : (s.pushRequest q).link = s.link := rfl
@[simp] theorem pushRequest_draws : (s.pushRequest q).draws = s.draws := rfl
@[simp] theorem pushRequest_device : (s.pushRequest q).device = s.device := rfl
@[simp] theorem pushRequest_roundHalfUp : (s.pushRequest q).roundHalfUp = s.roundHalfUp := rfl
theorem pushRequest_present (rest : List Request) (h : s.requests = rest) : (s.pushRequest q).present rest = s := by
  subst h; rfl
end pushRequest

section transmit
variable (s : State) (f : Bytes)
@[simp] theorem transmit_requests : (s.transmit f).requests = s.requests := by unfold State.transmit; split <;> rfl
@[simp] theorem transmit_responses : (s.transmit f).responses = s.responses := by unfold State.transmit; split <;> rfl
@[simp] theorem transmit_sent : (s.transmit f).sent = s.sent ++ [f] := by unfold State.transmit; split <;> rfl
@[simp] theorem transmit_link : (s.transmit f).link = s.link.tail := by
  unfold State.transmit; split <;> simp [*]
@[simp] theorem transmit_draws : (s.transmit f).draws = if s.link = [] then s.draws + 1 else s.draws := by
  unfold State.transmit; split <;> simp [*]
@[simp] theorem transmit_device : (s.transmit f).device = s.device := by unfold State.transmit; split <;> rfl
@[simp] theorem transmit_roundHalfUp : (s.transmit f).roundHalfUp = s.roundHalfUp := by
  unfold State.transmit; split <;> rfl
end transmit

section bank
variable (d : Device) (id : ChannelId) (k : Bank)
@[simp] theorem setBank_bank : (d.setBank id k).bank id = k := by cases id <;> rfl
@[simp] theorem setBank_bank_ne (j : ChannelId) (h : j ≠ id) : (d.setBank id k).bank j = d.bank j := by
  cases id <;> cases j <;> first | rfl | exact absurd rfl h
@[simp] theorem setBank_reference : (d.setBank id k).reference = d.reference := by cases id <;> rfl
@[simp] theorem setBank_status : (d.setBank id k).status = d.status := by cases id <;> rfl
@[simp] theorem setBank_nvram : (d.setBank id k).nvram = d.nvram := by cases id <;> rfl
end bank

end Sys2Proof.Machine
end

