-- ==== Sys2Proof/Laws/Ops.lean ====
section
/-!
SUPPORT. The shared operations, once each: what a response, a sequence of steps, a checksum, a frame and an exchange come to.
-/

namespace Sys2Proof.Machine

open Sys2Proof.Safety

/-! ## Responses and sequences of steps -/

theorem give_eq (r : Except Error Value) (s : State) : give r s = .next (s.respond (responseOf r)) := rfl

theorem answer_eq (r : Except Error Value) (s : State) : answer (r, s) = .next (s.respond (responseOf r)) := rfl

theorem answer_eq_next (p : Except Error Value × State) : answer p = .next (p.2.respond (responseOf p.1)) := rfl

@[simp] theorem pureStep_apply {α : Type} (r : Except Error α) (s : State) : pureStep r s = (r, s) := rfl

theorem andThen_ok {α β : Type} {m : Action α} {f : α → Action β} {s s' : State} {a : α} (h : m s = (.ok a, s')) :
    andThen m f s = f a s' := by simp [andThen, h]

theorem andThen_error {α β : Type} {m : Action α} {f : α → Action β} {s s' : State} {e : Error}
    (h : m s = (.error e, s')) : andThen m f s = (.error e, s') := by simp [andThen, h]

@[simp] theorem andThen_pure_ok {α β : Type} (a : α) (f : α → Action β) (s : State) :
    andThen (pureStep (.ok a)) f s = f a s := rfl

@[simp] theorem andThen_pure_error {α β : Type} (e : Error) (f : α → Action β) (s : State) :
    andThen (pureStep (.error e)) f s = (.error e, s) := rfl

theorem asValue_eq {α : Type} (f : α → Value) (m : Action α) (s : State) :
    asValue f m s = ((m s).1.map f, (m s).2) := by
  unfold asValue andThen
  split <;> simp_all [Except.map]

/-- What a sequence of two steps can do: the second ran on the first's result, or the first's error ended it. -/
theorem andThen_cases {α β : Type} (m : Action α) (f : α → Action β) (s : State) :
    (∃ a, (m s).1 = .ok a ∧ andThen m f s = f a (m s).2) ∨
      (∃ e, (m s).1 = .error e ∧ andThen m f s = (.error e, (m s).2)) := by
  rcases h : m s with ⟨_ | a, s'⟩
  · exact .inr ⟨_, rfl, andThen_error h⟩
  · exact .inl ⟨_, rfl, andThen_ok h⟩

/-- A response adds one entry to the state it is given in, and so says both. -/
theorem respond_inj {s t : State} {r r' : Response} : s.respond r = t.respond r' ↔ s = t ∧ r = r' := by
  refine ⟨fun h => ?_, fun ⟨h, h'⟩ => by rw [h, h']⟩
  cases s; cases t
  simp only [State.respond, State.mk.injEq, List.append_singleton_inj] at h
  obtain ⟨rfl, ⟨rfl, rfl⟩, rfl, rfl, rfl, rfl, rfl⟩ := h
  exact ⟨rfl, rfl⟩

/-- What an action that answers a value did. -/
theorem answer_asValue_ok {α : Type} {f : α → Value} {m : Action α} {s t : State} {v : Value} :
    answer (asValue f m s) = .next (t.respond (.ok v)) ↔ ∃ a, m s = (.ok a, t) ∧ f a = v := by
  rw [asValue_eq, answer_eq_next, Host.Outcome.next.injEq, respond_inj]
  rcases m s with ⟨_ | a, u⟩ <;> simp [Except.map, responseOf, and_comm]

/-- What an action that answers an error did. -/
theorem answer_asValue_error {α : Type} {f : α → Value} {m : Action α} {s t : State} {e : Error} :
    answer (asValue f m s) = .next (t.respond (.error e)) ↔ m s = (.error e, t) := by
  rw [asValue_eq, answer_eq_next, Host.Outcome.next.injEq, respond_inj]
  rcases m s with ⟨_ | a, u⟩ <;> simp [Except.map, responseOf, and_comm]

/-- What an operation on its operands alone answers a value of. -/
theorem give_map_ok {α : Type} {f : α → Value} {r : Except Error α} {s t : State} {v : Value} :
    give (r.map f) s = .next (t.respond (.ok v)) ↔ s = t ∧ ∃ a, r = .ok a ∧ f a = v := by
  rw [give_eq, Host.Outcome.next.injEq, respond_inj]
  rcases r with _ | a <;> simp [Except.map, responseOf]

/-- What an operation on its operands alone answers an error of. -/
theorem give_map_error {α : Type} {f : α → Value} {r : Except Error α} {s t : State} {e : Error} :
    give (r.map f) s = .next (t.respond (.error e)) ↔ s = t ∧ r = .error e := by
  rw [give_eq, Host.Outcome.next.injEq, respond_inj]
  rcases r with _ | a <;> simp [Except.map, responseOf]

/-- R77: a step on a controller function runs it to its response. -/
theorem step_call (s : State) (c : Call) : step (s.pushRequest (.call c)) = answer (runCall c s) := rfl

/-! ## Checksums and frames -/

theorem byteSum_nil : byteSum [] = 0 := rfl

theorem byteSum_cons (a : Byte) (b : Bytes) : byteSum (a :: b) = a.toNat + byteSum b := by simp [byteSum]

theorem byteSum_append (a b : Bytes) : byteSum (a ++ b) = byteSum a + byteSum b := by simp [byteSum]

theorem foldl_add_eq (b : Bytes) (c : Byte) : b.foldl (· + ·) c = c + sumByte b := by
  induction b generalizing c with
  | nil => simp [sumByte, byteSum]
  | cons a b ih =>
    rw [List.foldl_cons, ih]
    apply BitVec.eq_of_toNat_eq
    simp [sumByte, byteSum_cons, BitVec.toNat_add, BitVec.toNat_ofNat]
    omega

theorem checksum_eq (b : Bytes) : checksum b = sumByte b := by simp [checksum, foldl_add_eq]

theorem sumByte_toNat (b : Bytes) : (sumByte b).toNat = byteSum b % 256 := by simp [sumByte]

theorem verifyChecksum_eq (b : Bytes) (e : Byte) : verifyChecksum b e = decide (byteSum b % 256 = e.toNat) := by
  rw [verifyChecksum, checksum_eq, Bool.eq_iff_iff, beq_iff_eq, decide_eq_true_eq]
  exact ⟨fun h => by rw [← h, sumByte_toNat], fun h => BitVec.eq_of_toNat_eq (by rw [sumByte_toNat, h])⟩

theorem writeFrame_eq (a : Byte) (p : Bytes) : writeFrame a p = frameOf a p := by
  simp [writeFrame, frameOf, checksum_eq, sumByte, byteSum_cons]

@[simp] theorem frameOf_length (a : Byte) (p : Bytes) : (frameOf a p).length = p.length + 2 := by simp [frameOf]

@[simp] theorem writeFrame_length (a : Byte) (p : Bytes) : (writeFrame a p).length = p.length + 2 := by
  simp [writeFrame_eq]

/-! ## Big-endian bytes -/

theorem packU32_eq (v : Word) : packU32 v = bigEndian 4 v.toNat := by
  simp only [packU32, bigEndian, List.range_succ_eq_map, List.range_zero, List.map_cons, List.map_nil,
    List.cons.injEq, and_true]
  refine ⟨?_, ?_, ?_, ?_⟩ <;> apply BitVec.eq_of_toNat_eq <;> simp [Nat.shiftRight_eq_div_pow]

theorem packU16_eq (v : Half) : packU16 v = bigEndian 2 v.toNat := by
  simp only [packU16, bigEndian, List.range_succ_eq_map, List.range_zero, List.map_cons, List.map_nil,
    List.cons.injEq, and_true]
  refine ⟨?_, ?_⟩ <;> apply BitVec.eq_of_toNat_eq <;> simp [Nat.shiftRight_eq_div_pow]

theorem packBlock_eq (x : RegBlock) : packBlock x = blockBytes x := by
  simp [packBlock, putRegBlock, blockBytes, packU32_eq]

theorem packVco_eq (v : VcoRange) : packVco v = vcoBytes v := by simp [packVco, vcoBytes, packU16_eq]

@[simp] theorem packBlock_length (x : RegBlock) : (packBlock x).length = 24 := rfl

@[simp] theorem packVco_length (v : VcoRange) : (packVco v).length = 4 := rfl

@[simp] theorem unpackBlock_packBlock (x : RegBlock) : unpackBlock (packBlock x) = .ok x := by
  simp only [unpackBlock, packBlock, takeRegBlock_putRegBlock_nil]

@[simp] theorem unpackVco_packVco (v : VcoRange) : unpackVco (packVco v) = .ok v := by
  simp [unpackVco, packVco, packU16, joinU16_packU16]

@[simp] theorem unpackU32_packU32 (v : Word) : unpackU32 (packU32 v) = .ok v := by
  simp [unpackU32, packU32, joinU32_packU32]

/-! ## Exchanges -/

/-- The state in which every exchange ends: `transmit`, then the device it leaves. -/
theorem exchanged_of (s : State) (frame : Bytes) (r : Response) (dev : Device) :
    Exchanged s ({ s.transmit frame with device := dev }.respond r) frame r dev :=
  ⟨by simp, by simp, by simp, by simp, by simp, rfl, by simp⟩

theorem exchanged_transmit (s : State) (frame : Bytes) (r : Response) :
    Exchanged s ((s.transmit frame).respond r) frame r s.device :=
  ⟨by simp, by simp, by simp, by simp, by simp, by simp, by simp⟩

/-- R171: a frame the transport did not take whole. -/
theorem xwrite_short (s : State) (a : Byte) (p : Bytes)
    (h : accepted (nextDraw s) (p.length + 2) ≠ p.length + 2) :
    xwrite a p s = (.error (.transport .txWrite (p.length + 2) (accepted (nextDraw s) (p.length + 2))),
      s.transmit (frameOf a p)) := by
  simp [xwrite, writeFrame_eq, h]

/-- R171: a frame the transport took whole, and what its answer makes of it. -/
theorem xwrite_answered (s : State) (a : Byte) (p rx : Bytes) (h : WriteAnswered s a p rx) :
    xwrite a p s = (checkAck rx,
      { s.transmit (frameOf a p) with device := deviceAfterWrite (nextDraw s) rx s.device a p }) := by
  obtain ⟨h1, h2⟩ := h
  simp [xwrite, writeFrame_eq, h1, h2]

/-- R172: a request byte the transport did not take. -/
theorem xread_short (s : State) (a : Byte) (n : Nat) (h : accepted (nextDraw s) 1 ≠ 1) :
    xread a n s = (.error (.transport .txWrite 1 (accepted (nextDraw s) 1)), s.transmit [a]) := by
  simp [xread, readFrame, h]

/-- R172: a request byte the transport took, and the response. -/
theorem xread_answered (s : State) (a : Byte) (n : Nat) (rx : Bytes) (h : ReadAnswered s a n rx) :
    xread a n s = (checkResponse rx n, { s.transmit [a] with device := deviceAtRead s }) := by
  obtain ⟨h1, h2⟩ := h
  simp only [deviceAtRead] at h2
  simp [xread, readFrame, h1, h2, deviceAtRead]

theorem checkResponse_replyOf (p : Bytes) (n : Nat) (h : p.length = n) : checkResponse (replyOf p) n = .ok p := by
  subst h
  simp [checkResponse, replyOf, verifyChecksum_eq, sumByte_toNat]

/-- R172 with a valid response: the payload. -/
theorem xread_replied (s : State) (a : Byte) (n : Nat) (p : Bytes) (hp : p.length = n)
    (h : ReadAnswered s a n (replyOf p)) :
    xread a n s = (.ok p, { s.transmit [a] with device := deviceAtRead s }) := by
  rw [xread_answered s a n _ h, checkResponse_replyOf p n hp]

/-- R171 with ACK: the written item, or whatever the device then holds. -/
theorem xwrite_acked (s : State) (a : Byte) (p : Bytes) (dev : Device) (hd : storeAt s.device a p = some dev)
    (h : WriteAnswered s a p [0x06]) :
    xwrite a p s = (.ok (), { s.transmit (frameOf a p) with device := (nextDraw s).drift.getD dev }) := by
  rw [xwrite_answered s a p _ h]
  simp [checkAck, Config.ack, deviceAfterWrite, hd]

/-- What a write exchange can do to the state: one frame sent, and the device as it was, as written, or as the draw has it. -/
theorem xwrite_state (s : State) (a : Byte) (p : Bytes) :
    ∃ dev, (xwrite a p s).2 = { s.transmit (frameOf a p) with device := dev } := by
  by_cases h : accepted (nextDraw s) (p.length + 2) = p.length + 2
  · exact ⟨_, by rw [xwrite_answered s a p _ ⟨h, rfl⟩]⟩
  · exact ⟨s.device, by rw [xwrite_short s a p h, ← transmit_device s (frameOf a p)]⟩

/-- What a read exchange can do to the state: one request byte sent, and the device as it was or as the draw has it. -/
theorem xread_state (s : State) (a : Byte) (n : Nat) :
    ∃ dev, (xread a n s).2 = { s.transmit [a] with device := dev } := by
  by_cases h : accepted (nextDraw s) 1 = 1
  · exact ⟨_, by rw [xread_answered s a n _ ⟨h, rfl⟩]⟩
  · exact ⟨s.device, by rw [xread_short s a n h, ← transmit_device s [a]]⟩

/-! ## What an attached device holds after each write (R67, R33) -/

theorem addressOf_eq (c : Command) (id : ChannelId) (h : perChannel c = true) :
    addressOf c id = channelAddress (baseAddress c) id := by
  cases c <;> cases id <;> first | rfl | exact absurd h (by decide)

theorem storeAt_regs (d : Device) (id : ChannelId) (x : RegBlock) :
    storeAt d (channelAddress 0x00 id) (blockBytes x) = some (d.setBank id { d.bank id with regs := x }) := by
  have h := commandAt_addressOf .setRegs id rfl
  rw [addressOf_eq _ _ rfl] at h
  simp only [storeAt, show (0x00 : Byte) = baseAddress .setRegs from rfl, h, storeItem, ← packBlock_eq,
    unpackBlock_packBlock]

theorem storeAt_label (d : Device) (id : ChannelId) (l : Bytes) (h : l.length = 16) :
    storeAt d (channelAddress 0x02 id) l =
      some (d.setBank id { d.bank id with label := ⟨l.toArray, by simpa using h⟩ }) := by
  have ha := commandAt_addressOf .setLabel id rfl
  rw [addressOf_eq _ _ rfl] at ha
  simp only [storeAt, show (0x02 : Byte) = baseAddress .setLabel from rfl, ha, storeItem, h, dif_pos]

theorem storeAt_vco (d : Device) (id : ChannelId) (v : VcoRange) :
    storeAt d (channelAddress 0x03 id) (vcoBytes v) = some (d.setBank id { d.bank id with vco := v }) := by
  have h := commandAt_addressOf .setVco id rfl
  rw [addressOf_eq _ _ rfl] at h
  simp only [storeAt, show (0x03 : Byte) = baseAddress .setVco from rfl, h, storeItem, ← packVco_eq, unpackVco_packVco]

theorem storeAt_ref (d : Device) (hz : Word) :
    storeAt d 0x01 (bigEndian 4 hz.toNat) = some { d with reference := hz } := by
  simp only [storeAt, show (0x01 : Byte) = baseAddress .setRef from rfl, commandAt_baseAddress .setRef, storeItem,
    ← packU32_eq, unpackU32_packU32]

theorem storeAt_refsel (d : Device) (v : Bool) : storeAt d 0x06 [BitVec.ofNat 8 v.toNat] =
    some { d with status := if v then d.status ||| 0x01 else d.status &&& 0xFE } := by
  cases v <;> rfl

theorem storeAt_flash (d : Device) : storeAt d 0x40 [] = some { d with nvram := ⟨d.bankA, d.bankB⟩ } := rfl

/-- R63, R187: an attached device's reply to a per-channel read is the item as a valid response. -/
theorem readReply_eq (d : Device) (c : Command) (id : ChannelId) (p : Bytes) (h : deviceItem d id c = some p)
    (hc : perChannel c = true) : readReply d (channelAddress (baseAddress c) id) = replyOf p := by
  have ha := commandAt_addressOf c id hc
  rw [addressOf_eq _ _ hc] at ha
  simp [readReply, ha, h, replyOf, checksum_eq]

/-- The reply to the shared read of the reference frequency. -/
theorem readReply_ref (d : Device) : readReply d 0x81 = replyOf (bigEndian 4 d.reference.toNat) := by
  simp [readReply, show (0x81 : Byte) = baseAddress .getRef from rfl, commandAt_baseAddress .getRef, deviceItem, replyOf,
    checksum_eq, packU32_eq]

end Sys2Proof.Machine
end

