-- ==== Sys2Proof/Laws/Controller.lean ====
section
/-!
SUPPORT. The reads of a controller function: what a read command that answered a value did, what it sent, what an attached device
answers; and the arithmetic of `setFrequency` as the rules state it.
-/

namespace Sys2Proof.Machine

open Sys2Proof.Safety

/-! ## A read that answered a value -/

theorem readVco_of_exec {s t : State} {id : ChannelId} {v : VcoRange}
    (h : exec (.getVco id) s = .next (t.respond (.ok (.vco v)))) : readVco id s = (.ok v, t) := by
  obtain ⟨a, h1, h2⟩ := answer_asValue_ok.1 h
  cases h2
  exact h1

theorem readRef_of_exec {s t : State} {hz : Word}
    (h : exec .getRef s = .next (t.respond (.ok (.word hz)))) : readRef s = (.ok hz, t) := by
  obtain ⟨a, h1, h2⟩ := answer_asValue_ok.1 h
  cases h2
  exact h1

theorem readRegs_of_exec {s t : State} {id : ChannelId} {x : RegBlock}
    (h : exec (.getRegs id) s = .next (t.respond (.ok (.block x)))) : readRegs id s = (.ok x, t) := by
  obtain ⟨a, h1, h2⟩ := answer_asValue_ok.1 h
  cases h2
  exact h1

theorem getOptionsOf_of_exec {s t : State} {x : RegBlock} {o : Options}
    (h : exec (.getopt x) s = .next (t.respond (.ok (.options o)))) : getOptionsOf x = .ok o := by
  obtain ⟨_, a, h1, h2⟩ := give_map_ok.1 h
  cases h2
  exact h1

/-! ## What a read sends, whatever it answers -/

/-- Decoding the response of a read exchange changes the state no further. -/
theorem andThen_pureStep_state {α β : Type} (m : Action α) (f : α → Except Error β) (s : State) :
    (andThen m (fun a => pureStep (f a)) s).2 = (m s).2 := by
  rcases andThen_cases m (fun a => pureStep (f a)) s with ⟨a, _, h⟩ | ⟨e, _, h⟩
  · rw [h, pureStep_apply]
  · rw [h]

theorem readVco_state (s : State) (id : ChannelId) :
    ∃ dev, (readVco id s).2 = { s.transmit [channelAddress 0x83 id] with device := dev } := by
  rw [readVco, addressOf_eq _ _ rfl, andThen_pureStep_state]
  exact xread_state s _ 4

theorem readRef_state (s : State) : ∃ dev, (readRef s).2 = { s.transmit [0x81] with device := dev } := by
  rw [readRef, andThen_pureStep_state]
  exact xread_state s _ 4

theorem readRegs_state (s : State) (id : ChannelId) :
    ∃ dev, (readRegs id s).2 = { s.transmit [channelAddress 0x80 id] with device := dev } := by
  rw [readRegs, addressOf_eq _ _ rfl, andThen_pureStep_state]
  exact xread_state s _ 24

/-! ## The arithmetic of `setFrequency` -/

/-- R230: the steps of getEPDF give the effective phase detector frequency. -/
theorem epdfOf_eq (hz : Word) (o : Options) : epdfOf hz o = effectiveFrequency hz o := by
  obtain ⟨d, h, r, l⟩ := o
  by_cases hr : 1 < r.toNat
  · cases d <;> cases h <;> simp [epdfOf, effectiveFrequency, hr, Nat.max_eq_left hr.le]
  · have hr' : max r.toNat 1 = 1 := by omega
    cases d <;> cases h <;> simp [epdfOf, effectiveFrequency, hr, hr']

theorem floor_toNat_bounds (t : Rat) (h : 0 ≤ t) : (t.floor.toNat : Rat) ≤ t ∧ t < (t.floor.toNat : Rat) + 1 := by
  have h0 : 0 ≤ t.floor := Rat.le_floor_iff.2 (by simpa using h)
  have h1 : (t.floor.toNat : Rat) = (t.floor : Rat) := by rw [← Int.cast_natCast, Int.toNat_of_nonneg h0]
  rw [h1]
  exact ⟨Rat.floor_le t, by exact_mod_cast Rat.lt_floor_add_one t⟩

/-- R238, for both values of ROUND_HALF_UP. -/
theorem roundWith_isRounded (halfUp : Bool) (t : Rat) (h : 0 ≤ t) : IsRounded halfUp t (roundWith halfUp t).toNat := by
  cases halfUp
  · simpa [IsRounded, roundWith] using floor_toNat_bounds t h
  · simpa [IsRounded, roundWith] using floor_toNat_bounds (t + 1 / 2) (by linarith)

/-- R232, R237: after its three first reads `setFrequency` computes, and then runs the read-modify-write of step 8. -/
theorem callSetFrequency_of_reads {s s' : State} {id : ChannelId} {v : VcoRange} {hz : Word} {o : Options} (f : Rat)
    {sp : Option Rat} (hs : 0 < sp.getD 10) (h : ReadForSetFrequency s id v hz o s') :
    callSetFrequency id f sp s = andThen
      (pureStep (computeSetting s.roundHalfUp f (sp.getD 10) (effectiveFrequency hz o) (chooseDivider f v.low)))
      (fun raw => readModifyWrite id (setRawSetting raw)) s' := by
  obtain ⟨s₁, s₂, x, h1, h2, h3, h4⟩ := h
  have hs' : ¬ sp.getD Config.defaultSpacing ≤ 0 := by simpa [Config.defaultSpacing] using hs
  have h1 := readVco_of_exec h1
  have hround : s₁.roundHalfUp = s.roundHalfUp := by
    obtain ⟨dev, e⟩ := readVco_state s id
    rw [h1] at e
    simp [show s₁ = _ from e]
  have hepdf : callEpdf id s₁ = (.ok (effectiveFrequency hz o), s') := by
    rw [callEpdf, andThen_ok (readRef_of_exec h2), andThen_ok (readRegs_of_exec h3), getOptionsOf_of_exec h4,
      andThen_pure_ok, pureStep_apply, epdfOf_eq]
  simp only [callSetFrequency, hs', if_false]
  rw [andThen_ok h1, andThen_ok hepdf]
  obtain ⟨dev, e⟩ := readRef_state s₁
  obtain ⟨dev', e'⟩ := readRegs_state s₂ id
  rw [readRef_of_exec h2] at e
  rw [readRegs_of_exec h3] at e'
  have : s'.roundHalfUp = s.roundHalfUp := by
    simp [show s' = _ from e', show s₂ = _ from e, hround]
  rw [this]
  rfl

/-! ## Exchanges with an attached device (the assumption of R187) -/

/-- One ideal exchange of several: the next draw is ideal, and so are the others after it. -/
theorem idealLink_step {s : State} {n : Nat} (h : IdealLink s (n + 1)) :
    nextDraw s = idealDraw ∧ ∀ t : State, t.link = s.link.tail → IdealLink t n := by
  obtain ⟨rest, hr⟩ := h
  rw [List.replicate_succ, List.cons_append] at hr
  exact ⟨by simp [nextDraw, hr], fun t ht => ⟨rest, by rw [ht, hr, List.tail_cons]⟩⟩

theorem xread_ideal {s : State} {a : Byte} {n : Nat} {p : Bytes} (h : nextDraw s = idealDraw) (hp : p.length = n)
    (hr : readReply s.device a = replyOf p) : xread a n s = (.ok p, s.transmit [a]) := by
  have hd : deviceAtRead s = s.device := by simp [deviceAtRead, h, idealDraw]
  rw [xread_replied s a n p hp, hd, ← transmit_device s [a]]
  refine ⟨by rw [h]; rfl, ?_⟩
  simp only [received, h, idealDraw, hd, hr]
  exact List.take_of_length_le (by simp [replyOf, hp])

theorem xwrite_ideal {s : State} {a : Byte} {p : Bytes} {dev : Device} (h : nextDraw s = idealDraw)
    (hd : storeAt s.device a p = some dev) : xwrite a p s = (.ok (), { s.transmit (frameOf a p) with device := dev }) := by
  rw [xwrite_acked s a p dev hd ⟨by rw [h]; rfl, by simp [received, h, idealDraw, writeReply, hd, Config.ack]⟩, h]
  rfl

theorem readRegs_ideal {s : State} {id : ChannelId} (h : nextDraw s = idealDraw) :
    readRegs id s = (.ok (s.device.bank id).regs, s.transmit [channelAddress 0x80 id]) := by
  rw [readRegs, addressOf_eq _ _ rfl]
  rw [andThen_ok (xread_ideal (n := 24) h rfl (readReply_eq s.device .getRegs id (packBlock (s.device.bank id).regs) rfl rfl))]
  simp [baseAddress]

theorem readVco_ideal {s : State} {id : ChannelId} (h : nextDraw s = idealDraw) :
    readVco id s = (.ok (s.device.bank id).vco, s.transmit [channelAddress 0x83 id]) := by
  rw [readVco, addressOf_eq _ _ rfl]
  rw [andThen_ok (xread_ideal (n := 4) h rfl (readReply_eq s.device .getVco id (packVco (s.device.bank id).vco) rfl rfl))]
  simp [baseAddress]

theorem readRef_ideal {s : State} (h : nextDraw s = idealDraw) :
    readRef s = (.ok s.device.reference, s.transmit [0x81]) := by
  rw [readRef, show baseAddress .getRef = 0x81 from rfl, andThen_ok (xread_ideal (n := 4) h rfl (readReply_ref s.device)),
    ← packU32_eq]
  simp

theorem writeRegs_ideal {s : State} {id : ChannelId} (x : RegBlock) (h : nextDraw s = idealDraw) :
    writeRegs id x s = (.ok (), { s.transmit (frameOf (channelAddress 0x00 id) (blockBytes x)) with
      device := s.device.setBank id { s.device.bank id with regs := x } }) := by
  rw [writeRegs, addressOf_eq _ _ rfl, packBlock_eq]
  exact xwrite_ideal h (storeAt_regs _ _ _)

end Sys2Proof.Machine
end

