-- ==== Sys2Proof/Laws/Fields.lean ====
section
/-!
SUPPORT. Bit fields, once each: which bits reading a field gives, which bits writing one changes, and the image that the members of
an unpacked record make.
-/

namespace Sys2Proof.Machine

theorem bitsOf_toNat (w : Word) (off width : Nat) (h : width ≤ 32) :
    (bitsOf w off width).toNat = w.toNat / 2 ^ off % 2 ^ width := by
  simp only [bitsOf, BitVec.toNat_ofNat]
  exact Nat.mod_eq_of_lt (lt_of_lt_of_le (Nat.mod_lt _ (by positivity)) (Nat.pow_le_pow_right (by omega) h))

theorem bitsOf_lt (w : Word) (off width : Nat) (h : width ≤ 32) : (bitsOf w off width).toNat < 2 ^ width := by
  rw [bitsOf_toNat _ _ _ h]
  exact Nat.mod_lt _ (by positivity)

theorem bitsOf_getLsbD (w : Word) (off width i : Nat) (h : off + width ≤ 32) :
    (bitsOf w off width).getLsbD i = (decide (i < width) && w.getLsbD (off + i)) := by
  rw [← BitVec.testBit_toNat, bitsOf_toNat _ _ _ (by omega), Nat.testBit_mod_two_pow, Nat.testBit_div_two_pow,
    BitVec.testBit_toNat, Nat.add_comm]

theorem fieldMask_getLsbD (off width i : Nat) (h : off + width ≤ 32) :
    (fieldMask off width).getLsbD i = decide (off ≤ i ∧ i < off + width) := by
  rw [← BitVec.testBit_toNat, fieldMask, BitVec.toNat_ofNat, Nat.testBit_mod_two_pow, ← Nat.shiftLeft_eq,
    Nat.testBit_shiftLeft, Nat.testBit_two_pow_sub_one, Bool.eq_iff_iff]
  simp
  omega

/-- A value that fits `width` bits has no bit from `width` on. -/
theorem getLsbD_of_fits (v : Word) (width i : Nat) (h : v.toNat < 2 ^ width) (hi : width ≤ i) : v.getLsbD i = false := by
  rw [← BitVec.testBit_toNat]
  exact Nat.testBit_lt_two_pow (lt_of_lt_of_le h (Nat.pow_le_pow_right (by omega) hi))

/-- R131: writing a field changes the field's bits and no other. -/
theorem putField_getLsbD (w : Word) (off width : Nat) (v : Word) (h : off + width ≤ 32) (hv : v.toNat < 2 ^ width)
    (i : Nat) (hi : i < 32) : (putField w off width v).getLsbD i =
      if off ≤ i ∧ i < off + width then v.getLsbD (i - off) else w.getLsbD i := by
  simp only [putField, BitVec.getLsbD_or, BitVec.getLsbD_and, BitVec.getLsbD_not, fieldMask_getLsbD _ _ _ h,
    BitVec.getLsbD_shiftLeft, hi]
  by_cases h1 : off ≤ i
  · by_cases h2 : i < off + width
    · simp [h1, h2, show ¬ i < off by omega]
    · simp [h1, h2, getLsbD_of_fits v width (i - off) hv (by omega)]
  · simp [h1, show i < off by omega]

/-- A field reads back what was written to it. -/
theorem bitsOf_putField (w : Word) (off width : Nat) (v : Word) (h : off + width ≤ 32) (hv : v.toNat < 2 ^ width) :
    bitsOf (putField w off width v) off width = v := by
  apply BitVec.eq_of_getLsbD_eq
  intro i hi
  rw [bitsOf_getLsbD _ _ _ _ h]
  by_cases h1 : i < width
  · rw [putField_getLsbD _ _ _ _ h hv _ (by omega)]
    simp [h1]
  · simp [h1, getLsbD_of_fits v width i hv (by omega)]

/-- Another field reads as it did. -/
theorem bitsOf_putField_disjoint (w : Word) (off width off' width' : Nat) (v : Word) (h : off + width ≤ 32)
    (hv : v.toNat < 2 ^ width) (h' : off' + width' ≤ 32) (hd : off + width ≤ off' ∨ off' + width' ≤ off) :
    bitsOf (putField w off width v) off' width' = bitsOf w off' width' := by
  apply BitVec.eq_of_getLsbD_eq
  intro i hi
  rw [bitsOf_getLsbD _ _ _ _ h', bitsOf_getLsbD _ _ _ _ h']
  by_cases a : i < width'
  · rw [putField_getLsbD _ _ _ _ h hv _ (by omega), if_neg (by omega)]
  · simp [a]

/-- Writing back what was read changes nothing. -/
theorem putField_bitsOf (w : Word) (off width : Nat) (h : off + width ≤ 32) :
    putField w off width (bitsOf w off width) = w := by
  apply BitVec.eq_of_getLsbD_eq
  intro i hi
  rw [putField_getLsbD _ _ _ _ h (bitsOf_lt _ _ _ (by omega)) _ hi]
  split
  · rw [bitsOf_getLsbD _ _ _ _ h]
    simp [show i - off < width by omega, show off + (i - off) = i by omega]
  · rfl

/-! ## The image of an unpacked record (R138 to R143) -/

/-- The members of a record stand in ascending, disjoint fields. -/
def Ascending : List Member → Prop
  | [] => True
  | m :: t => (∀ n ∈ t, m.off + m.width ≤ n.off) ∧ Ascending t

/-- Members that fit, ORed into a word whose bits are clear there, are added to it. -/
theorem foldl_or_eq_add (members : List Member) (acc : Word) (hd : Ascending members)
    (hv : ∀ m ∈ members, m.value.toNat < 2 ^ m.width)
    (hz : ∀ m ∈ members, ∀ i, m.off ≤ i → i < m.off + m.width → acc.getLsbD i = false) :
    members.foldl (fun w m => w ||| m.value <<< m.off) acc =
      acc + BitVec.ofNat 32 (members.map fun m => m.value.toNat * 2 ^ m.off).sum := by
  induction members generalizing acc with
  | nil => simp
  | cons m t ih =>
    have hfit := fun i => getLsbD_of_fits m.value m.width (i - m.off) (hv m (by simp))
    have hor : acc ||| m.value <<< m.off = acc + m.value <<< m.off := by
      rw [BitVec.add_eq_or_of_and_eq_zero]
      apply BitVec.eq_of_getLsbD_eq
      intro i hi
      rw [BitVec.getLsbD_and, BitVec.getLsbD_shiftLeft]
      by_cases a : m.off ≤ i
      · by_cases b : i < m.off + m.width
        · simp [hz m (by simp) i a b]
        · simp [hfit i (by omega)]
      · simp [show i < m.off by omega]
    have hs : m.value <<< m.off = BitVec.ofNat 32 (m.value.toNat * 2 ^ m.off) := by
      apply BitVec.eq_of_toNat_eq
      simp [Nat.shiftLeft_eq]
    simp only [List.foldl_cons, List.map_cons, List.sum_cons]
    rw [ih _ hd.2 (fun n hn => hv n (by simp [hn])), hor, hs, BitVec.ofNat_add, BitVec.add_assoc]
    intro n hn i h1 h2
    have := hd.1 n hn
    rw [BitVec.getLsbD_or, hz n (by simp [hn]) i h1 h2, BitVec.getLsbD_shiftLeft, hfit i (by omega)]
    simp

/-- What `packMembers` answers for members that fit and a `rsvd` without mapped bits: the sum. -/
theorem packMembers_ok (members : List Member) (mapped rsvd : Word) (hd : Ascending members)
    (hv : ∀ m ∈ members, m.value.toNat < 2 ^ m.width) (hr : rsvd &&& mapped = 0)
    (hm : ∀ m ∈ members, ∀ i, m.off ≤ i → i < m.off + m.width → mapped.getLsbD i = true) :
    packMembers members mapped rsvd =
      .ok (BitVec.ofNat 32 (rsvd.toNat + (members.map fun m => m.value.toNat * 2 ^ m.off).sum)) := by
  have hf : members.find? (fun m => decide (2 ^ m.width ≤ m.value.toNat)) = none := by
    rw [List.find?_eq_none]
    intro m h
    simpa using hv m h
  unfold packMembers
  rw [hf]
  simp only [hr, ne_eq, not_true_eq_false, if_false]
  rw [foldl_or_eq_add members rsvd hd hv, BitVec.ofNat_add]
  · simp
  · intro m h i a b
    have := congrArg (·.getLsbD i) hr
    simpa [hm m h i a b] using this

end Sys2Proof.Machine
end

