-- ==== Sys2Proof/Tests/Slice0.lean ====
section
/-!
SUPPORT. Tests. Expected results are those of spec/95_test_vectors.md (vector T<n> or program P<n>), or words written out by hand from
spec/30_encoding.md. Then, for every statement with hypotheses, concrete values that meet them.
-/

namespace Sys2Proof.Tests

open Sys2Proof Sys2Proof.Machine Sys2Proof.Safety

/-! ## Small states -/

/-- The register block `X0` of spec/95_test_vectors.md. -/
def x0 : RegBlock := ⟨0x80AF0028, 0xA8008041, 0x18000E42, 0x000204B3, 0x008C803C, 0x00580005⟩

/-- The register block `X1` of spec/95_test_vectors.md. -/
def x1 : RegBlock := ⟨0x80C80000, 0xA8008009, 0x18000E42, 0x000204B3, 0x00AC803C, 0x00580005⟩

/-- The wire bytes of `X0`. -/
def x0Bytes : Bytes :=
  [0x80, 0xAF, 0x00, 0x28, 0xA8, 0x00, 0x80, 0x41, 0x18, 0x00, 0x0E, 0x42, 0x00, 0x02, 0x04, 0xB3, 0x00, 0x8C, 0x80, 0x3C,
   0x00, 0x58, 0x00, 0x05]

/-- The wire bytes of `X1`. -/
def x1Bytes : Bytes :=
  [0x80, 0xC8, 0x00, 0x00, 0xA8, 0x00, 0x80, 0x09, 0x18, 0x00, 0x0E, 0x42, 0x00, 0x02, 0x04, 0xB3, 0x00, 0xAC, 0x80, 0x3C,
   0x00, 0x58, 0x00, 0x05]

/-- The label "LO2" fitted to 16 bytes (P2). -/
def lo2 : Bytes := [0x4C, 0x4F, 0x32, 0, 0, 0, 0, 0, 0, 0, 0, 0, 0, 0, 0, 0]

/-- An exchange whose frame is taken whole and whose RxRead returns these bytes. -/
def gives (b : Bytes) : Draw := { accepted := none, answer := .bytes b, applied := false, drift := none }

/-- An exchange of which TxWrite takes only `n` bytes. -/
def takes (n : Nat) : Draw := { accepted := some n, answer := .bytes [], applied := false, drift := none }

/-- The state after reset with these exchanges to come. -/
def withLink (l : List Draw) : State := { State.reset with link := l }

/-- The device of P1: channel A holds `X0` and the VCO range (2300, 4400), the reference is 10 MHz. -/
def device1 : Device :=
  { resetDevice with bankA := { resetBank with regs := x0, vco := ⟨2300, 4400⟩ }, reference := 10000000 }

/-- The state after reset with that device attached and answering the next `n` exchanges (R187). -/
def attached (n : Nat) : State := { State.reset with device := device1, link := List.replicate n idealDraw }

/-- What came back, and what was sent. -/
def seen : Host.Outcome State Fault Refusal → Option (List Response × List Bytes)
  | .next t => some (t.responses, t.sent)
  | _ => none

/-- The one response of an instruction run after reset. -/
def gave (i : Instr) : Option Response :=
  match exec i State.reset with
  | .next t => t.responses.head?
  | _ => none

/-- The state an outcome gives, if it gives one. -/
def nextOf : Host.Outcome State Fault Refusal → State
  | .next t => t
  | _ => State.reset

/-- One more request, run. -/
def call (c : Call) (s : State) : Host.Outcome State Fault Refusal := step (s.pushRequest (.call c))

def bad (which : BadArgument) : Option Response := some (.error (.invalidArgument which))

/-! ## Well-formed terms, and an ill-formed one for each check -/

/-- There is a byte string one byte too long for a request. -/
theorem test_long_exists : ∃ b : Bytes, b.length = 4294967296 := ⟨List.replicate 4294967296 0, List.length_replicate⟩

theorem long_refused (b : Bytes) (h : b.length = 4294967296) : wfBytes b = false := by simp [wfBytes, h]

theorem test_wf_bytes (b : Bytes) (h : b.length = 4294967296) : (Instr.cksum b).wf = false ∧ (Instr.ckverify b 0).wf = false ∧
    (Instr.framew 0 b).wf = false ∧ (Instr.ackchk b).wf = false ∧ (Instr.xwrite 0 b).wf = false ∧
    (Instr.unpacku32 b).wf = false ∧ (Instr.unpacku16 b).wf = false ∧ (Instr.labelfit b).wf = false ∧
    (Instr.unpackvco b).wf = false ∧ (Instr.unpackblk b).wf = false ∧ (Instr.respchk b 1).wf = false := by
  simp [Instr.wf, long_refused b h]

theorem test_wf_respchk : (Instr.respchk [] 4294967296).wf = false ∧ (Instr.respchk [] 4294967295).wf = true := by decide

theorem test_wf_nat : (Instr.xread 0 4294967296).wf = false ∧ (Instr.fget 0 4294967296 1).wf = false ∧
    (Instr.fget 0 1 4294967296).wf = false ∧ (Instr.fset 0 4294967296 1 0).wf = false ∧
    (Instr.fset 0 1 4294967296 0).wf = false := by decide

theorem test_wf_label : (Instr.setLabel .a (lo2.drop 1)).wf = false ∧ (Instr.setLabel .a (0 :: lo2)).wf = false ∧
    (Instr.setLabel .a lo2).wf = true := by decide

/-! ## Decoding: requests written out from the op select table (R75) and the command table (R66, R67) -/

theorem test_decode_framer :
    decode .op [0x00, 0, 0, 0, 2, 0xFF, 0x01] = .ok (.cksum [0xFF, 0x01]) ∧
    decode .op [0x01, 0, 0, 0, 1, 0x4C, 0xCD] = .ok (.ckverify [0x4C] 0xCD) ∧
    decode .op [0x02, 0x40, 0, 0, 0, 0] = .ok (.framew 0x40 []) ∧
    decode .op [0x03, 0x8A] = .ok (.framer 0x8A) ∧
    decode .op [0x04, 0, 0, 0, 1, 0x15] = .ok (.ackchk [0x15]) ∧
    decode .op [0x05, 0, 0, 0, 2, 0x10, 0x11, 0, 0, 0, 1] = .ok (.respchk [0x10, 0x11] 1) := by decide

theorem test_decode_exchange :
    decode .op [0x06, 0x02, 0x08] = .ok (.mkaddr .setLabel (some .b)) ∧
    decode .op [0x06, 0x40, 0xFF] = .ok (.mkaddr .flash none) ∧
    decode .op [0x07, 0x06, 0, 0, 0, 1, 0x01] = .ok (.xwrite 0x06 [0x01]) ∧
    decode .op [0x08, 0x81, 0, 0, 0, 4] = .ok (.xread 0x81 4) := by decide

theorem test_decode_scalar :
    decode .op [0x10, 0x00, 0x98, 0x96, 0x80] = .ok (.packu32 10000000) ∧
    decode .op [0x11, 0, 0, 0, 2, 0x01, 0x02] = .ok (.unpacku32 [0x01, 0x02]) ∧
    decode .op [0x12, 0x08, 0xFC] = .ok (.packu16 2300) ∧
    decode .op [0x13, 0, 0, 0, 2, 0x11, 0x30] = .ok (.unpacku16 [0x11, 0x30]) ∧
    decode .op [0x14, 0x01] = .ok (.packbool true) ∧
    decode .op [0x15, 0, 0, 0, 0] = .ok (.labelfit []) ∧
    decode .op [0x16, 0x08, 0xFC, 0x11, 0x30] = .ok (.packvco 2300 4400) ∧
    decode .op [0x17, 0, 0, 0, 1, 0x08] = .ok (.unpackvco [0x08]) ∧
    decode .op [0x18, 0x08, 0x21] = .ok (.stphase .b 0x21) ∧
    decode .op [0x19, 0x21] = .ok (.strefsel 0x21) := by decide

theorem test_decode_unpack :
    decode .op [0x20, 0x80, 0xAF, 0x00, 0x28] = .ok (.unpackr0 0x80AF0028) ∧
    decode .op [0x21, 0, 0, 0, 1] = .ok (.unpackr1 1) ∧ decode .op [0x22, 0, 0, 1, 0] = .ok (.unpackr2 256) ∧
    decode .op [0x23, 0, 1, 0, 0] = .ok (.unpackr3 65536) ∧ decode .op [0x24, 1, 0, 0, 0] = .ok (.unpackr4 16777216) ∧
    decode .op [0x25, 0, 0, 0, 5] = .ok (.unpackr5 5) ∧
    decode .op [0x26, 0, 0, 0, 9, 0, 0, 0, 15, 0, 0, 0, 16] = .ok (.fget 9 15 16) ∧
    decode .op [0x27, 0, 0, 0, 9, 0, 0, 0, 3, 0, 0, 0, 12, 0, 0, 0, 5] = .ok (.fset 9 3 12 5) := by decide

theorem test_decode_pack :
    decode .op [0x28, 0, 0, 0, 1, 0, 0, 0, 2, 0, 0, 0, 3, 0, 0, 0, 4] = .ok (.packr0 ⟨1, 2, 3, 4⟩) ∧
    decode .op [0x29, 0, 0, 0, 1, 0, 0, 0, 2, 0, 0, 0, 3, 0, 0, 0, 4, 0, 0, 0, 5] = .ok (.packr1 ⟨1, 2, 3, 4, 5⟩) ∧
    decode .op [0x2B, 0, 0, 0, 1, 0, 0, 0, 2, 0, 0, 0, 3, 0, 0, 0, 4, 0, 0, 0, 5] = .ok (.packr3 ⟨1, 2, 3, 4, 5⟩) ∧
    decode .op [0x2D, 0, 0, 0, 1, 0, 0, 0, 2, 0, 0, 0, 3] = .ok (.packr5 ⟨1, 2, 3⟩) ∧
    decode .op [0x2E, 0, 0, 0, 1, 7] = .ok (.unpackblk [7]) ∧ decode .op (0x2F :: x0Bytes) = .ok (.packblk x0) := by decide

theorem test_decode_packr2 :
    decode .op [0x2A, 0, 0, 0, 1, 0, 0, 0, 2, 0, 0, 0, 3, 0, 0, 0, 4, 0, 0, 0, 5, 0, 0, 0, 6, 0, 0, 0, 7, 0, 0, 0, 8, 0, 0, 0, 9,
      0, 0, 0, 10, 0, 0, 0, 11, 0, 0, 0, 12, 0, 0, 0, 13, 0, 0, 0, 14, 0, 0, 0, 15] =
      .ok (.packr2 ⟨1, 2, 3, 4, 5, 6, 7, 8, 9, 10, 11, 12, 13, 14, 15⟩) := by decide

theorem test_decode_packr4 :
    decode .op [0x2C, 0, 0, 0, 1, 0, 0, 0, 2, 0, 0, 0, 3, 0, 0, 0, 4, 0, 0, 0, 5, 0, 0, 0, 6, 0, 0, 0, 7, 0, 0, 0, 8, 0, 0, 0, 9,
      0, 0, 0, 10, 0, 0, 0, 11, 0, 0, 0, 12] = .ok (.packr4 ⟨1, 2, 3, 4, 5, 6, 7, 8, 9, 10, 11, 12⟩) := by decide

theorem test_decode_codes :
    decode .op [0x30, 0, 0, 0, 4] = .ok (.dbfenc 4) ∧ decode .op [0x31, 0, 0, 0, 5] = .ok (.dbfdec 5) ∧
    decode .op [0x32, 0xFF, 0xFF, 0xFF, 0xFC] = .ok (.rflenc (BitVec.ofInt 32 (-4))) ∧
    decode .op [0x33, 0, 0, 0, 3] = .ok (.rfldec 3) ∧ decode .op [0x34, 0x01] = .ok (.lspenc true) ∧
    decode .op [0x35, 0, 0, 0, 2] = .ok (.lspdec 2) := by decide

theorem test_decode_projections :
    decode .op (0x36 :: x0Bytes) = .ok (.getfs x0) ∧
    decode .op (0x37 :: (x0Bytes ++ [0, 0, 1, 0x90, 0, 0, 0, 0, 0, 0, 0, 1, 0, 0, 0, 4])) = .ok (.setfs x0 ⟨400, 0, 1, 4⟩) ∧
    decode .op (0x38 :: x0Bytes) = .ok (.getopt x0) ∧
    decode .op (0x39 :: (x0Bytes ++ [1, 0, 0, 0, 0, 5, 1])) = .ok (.setopt x0 ⟨true, false, 5, true⟩) ∧
    decode .op (0x3A :: x0Bytes) = .ok (.getrfl x0) ∧
    decode .op (0x3B :: (x0Bytes ++ [0, 0, 0, 2])) = .ok (.setrfl x0 2) := by decide

theorem test_decode_reducer :
    decode .op [0x3C, 0, 0, 0, 250, 0, 0, 3, 0xE8] = .ok (.gcd 250 1000) ∧
    decode .op [0x3D, 0, 0, 0, 6, 0, 0, 0, 4] = .ok (.reduce 6 4) := by decide

theorem test_decode_commands :
    decode .command [0x80] = .ok (.getRegs .a) ∧ decode .command [0x88] = .ok (.getRegs .b) ∧
    decode .command (0x08 :: x1Bytes) = .ok (.setRegs .b x1) ∧ decode .command [0x8A] = .ok (.getLabel .b) ∧
    decode .command (0x0A :: lo2) = .ok (.setLabel .b lo2) ∧ decode .command [0x83] = .ok (.getVco .a) ∧
    decode .command [0x03, 0x08, 0xFC, 0x11, 0x30] = .ok (.setVco .a 2300 4400) ∧ decode .command [0x81] = .ok .getRef ∧
    decode .command [0x01, 0x00, 0x98, 0x96, 0x80] = .ok (.setRef 10000000) ∧
    decode .command [0x8E] = .ok (.getStatus .b) ∧ decode .command [0x06, 0x01] = .ok (.setRefsel true) ∧
    decode .command [0x40] = .ok .flash := by decide

/-- R73: what is no request is refused, and does not fall through to a neighbour. -/
theorem test_decode_refuses :
    decode .op [0x09] = .error (.unassignedOp 0x09) ∧ decode .op [0x40] = .error (.malformedOperands 0x40) ∧
    decode .op [0x19] = .error (.malformedOperands 0x19) ∧ decode .op [0x19, 1, 2] = .error (.malformedOperands 0x19) ∧
    decode .command [0x81, 0] = .error (.badPayload 0x81) ∧ decode .command [0x06, 0x02] = .error (.badPayload 0x06) ∧
    decode .command [0x09] = .error (.unlistedAddress 0x09) ∧ decode .op [] = .error .empty := by decide

/-- The opcode table's numbering: SET_REFSEL(true) is the word 0x0106, XREAD's byte is read as an op select (log entry 3). -/
theorem test_table_words :
    decodeTableWord 8 0x3D = some (.reduce 0 0) ∧ decodeTableWord 8 0x8E = some (.getStatus .b) ∧
    decodeTableWord 8 0x0B = some (.setVco .b 0 0) ∧ decodeTableWord 8 0x08 = some (.xread 0 0) ∧
    decodeTableWord 8 0xFF = none := by decide

/-! ## Checksum framer -/

theorem test_cksum_wraps : gave (.cksum []) = some (.ok (.byte 0)) ∧ gave (.cksum [0xFF, 0xFF]) = some (.ok (.byte 0xFE)) ∧
    gave (.cksum [0xFF, 0x01]) = some (.ok (.byte 0)) := by decide  -- T1, T5, T4

theorem test_ckverify : gave (.ckverify [0x4C, 0x4F, 0x32] 0xCD) = some (.ok (.bool true)) ∧
    gave (.ckverify [0x4C, 0x4F, 0x33] 0xCD) = some (.ok (.bool false)) ∧
    gave (.ckverify [0x4D, 0x4E, 0x32] 0xCD) = some (.ok (.bool true)) := by decide  -- T8, T9

theorem test_framew : gave (.framew 0x40 []) = some (.ok (.bytes [0x40, 0x40])) ∧
    gave (.framew 0x01 [0xFF, 0xFF, 0xFF, 0xFF]) = some (.ok (.bytes [0x01, 0xFF, 0xFF, 0xFF, 0xFF, 0xFD])) := by
  decide  -- T10, T11

theorem test_framer : gave (.framer 0x8E) = some (.ok (.bytes [0x8E])) := by decide  -- T13

theorem test_ackchk : gave (.ackchk [0x06]) = some (.ok .none) ∧ gave (.ackchk [0x15]) = some (.error (.protocol 0x15)) ∧
    gave (.ackchk []) = some (.error (.transport .rxRead 1 0)) ∧ gave (.ackchk [0x06, 0x06]) = bad .rxTooLong := by
  decide  -- T12

theorem test_respchk : gave (.respchk [0x10, 0x10] 1) = some (.ok (.bytes [0x10])) ∧
    gave (.respchk [0x10, 0x11] 1) = some (.error (.checksum 0x10 0x11)) ∧
    gave (.respchk [0x10] 1) = some (.error (.transport .rxRead 2 1)) ∧
    gave (.respchk [0x01, 0x02, 0x03] 1) = bad .rxTooLong := by decide  -- T14, T17

/-! ## Scalar codecs -/

theorem test_packu32 : gave (.packu32 0x01020304) = some (.ok (.bytes [1, 2, 3, 4])) := by decide  -- T20

theorem test_unpacku32 : gave (.unpacku32 [1, 2, 3, 4]) = some (.ok (.word 16909060)) ∧
    gave (.unpacku32 [1, 2, 3]) = bad .length ∧ gave (.unpacku32 [1, 2, 3, 4, 5]) = bad .length := by decide  -- T22

theorem test_packu16 : gave (.packu16 4400) = some (.ok (.bytes [0x11, 0x30])) := by decide  -- T23

theorem test_unpacku16 : gave (.unpacku16 [0x08, 0xFC]) = some (.ok (.half 2300)) ∧
    gave (.unpacku16 [0x08]) = bad .length := by decide  -- T24

theorem test_vco : gave (.packvco 4400 2300) = some (.ok (.bytes [0x11, 0x30, 0x08, 0xFC])) ∧
    gave (.unpackvco [0x11, 0x30, 0x08, 0xFC]) = some (.ok (.vco ⟨4400, 2300⟩)) := by decide  -- T25

theorem test_stphase : gave (.stphase .a 0x20) = some (.ok (.bool true)) ∧
    gave (.stphase .b 0x20) = some (.ok (.bool false)) ∧ gave (.stphase .a 0xDF) = some (.ok (.bool false)) ∧
    gave (.stphase .b 0x10) = some (.ok (.bool true)) := by decide  -- T26

theorem test_strefsel : gave (.strefsel 0xFE) = some (.ok (.bool false)) ∧
    gave (.strefsel 0xFF) = some (.ok (.bool true)) := by decide  -- T27

theorem test_packbool : gave (.packbool true) = some (.ok (.bytes [0x01])) ∧
    gave (.packbool false) = some (.ok (.bytes [0x00])) := by decide  -- T28

theorem test_labelfit : gave (.labelfit [0x4C, 0x4F, 0x32]) = some (.ok (.bytes lo2)) ∧
    gave (.labelfit (lo2 ++ [0x51, 0x52])) = some (.ok (.bytes lo2)) := by decide  -- P2, T29

/-! ## Register codec -/

theorem test_fget : gave (.fget 0x80AF0028 15 16) = some (.ok (.word 350)) ∧
    gave (.fget 0x00020000 15 2) = some (.ok (.word 0)) ∧ gave (.fget 0 0 0) = bad .fieldRange := by decide  -- R130, T30, T32

theorem test_fset : gave (.fset 0xFFFFFFFF 20 3 2) = some (.ok (.word 0xFFAFFFFF)) ∧
    gave (.fset 0 15 16 65536) = bad .fieldValue ∧ gave (.fset 0 30 3 0) = bad .fieldRange := by decide  -- T31, T32

theorem test_unpackr0 : gave (.unpackr0 0x80AF0028) =
    some (.ok (.unpackedR0 { control := 0, frac := 5, ncount := 350, rsvd := 0x80000000 })) := by decide  -- R132

theorem test_unpackr1 : gave (.unpackr1 0xA8008041) =
    some (.ok (.unpackedR1 { control := 1, mod := 8, phase := 1, prescaler := 1, rsvd := 0xA0000000 })) := by decide  -- R133

theorem test_unpackr2 : gave (.unpackr2 0x18000E42) = some (.ok (.unpackedR2
    { control := 2, counterReset := 0, cpThreeState := 0, pd := 0, pdPolarity := 1, ldp := 0, ldf := 0, chargePump := 7,
      doubleBuffer := 0, r := 0, halfR := 0, doubleR := 0, muxout := 6, lowSpur := 0, rsvd := 0 })) := by decide  -- R134

theorem test_unpackr3 : gave (.unpackr3 0x000204B3) = some (.ok (.unpackedR3
    { control := 3, clockDiv := 150, clockDivMode := 0, csr := 0, rsvd := 0x00020000 })) := by decide  -- R135

theorem test_unpackr4 : gave (.unpackr4 0x008C803C) = some (.ok (.unpackedR4
    { control := 4, outputPower := 3, rfOutputEnable := 1, auxOutputPower := 0, auxOutputEnable := 0, auxOutputSelect := 0,
      mtld := 0, vcoPowerDown := 0, bandSelectClockDiv := 200, dividerSelect := 0, feedbackSelect := 1, rsvd := 0 })) := by
  decide  -- R136

theorem test_unpackr5 : gave (.unpackr5 0x00580005) =
    some (.ok (.unpackedR5 { control := 5, ldPinMode := 1, rsvd := 0x00180000 })) := by decide  -- R137

theorem test_packr0 : gave (.packr0 ⟨0, 0, 400, 0x80000000⟩) = some (.ok (.word 0x80C80000)) ∧
    gave (.packr0 ⟨0, 4096, 0, 0⟩) = bad (.field .frac) ∧ gave (.packr0 ⟨0, 0, 0, 8⟩) = bad .rsvd := by decide  -- R138, T41

theorem test_packr1 : gave (.packr1 ⟨1, 1, 1, 1, 0xA0000000⟩) = some (.ok (.word 0xA8008009)) := by decide  -- R139

theorem test_packr2 : gave (.packr2 ⟨2, 0, 0, 0, 1, 0, 0, 7, 0, 5, 0, 1, 6, 3, 0⟩) = some (.ok (.word 0x7A014E42)) := by
  decide  -- R140

theorem test_packr3 : gave (.packr3 ⟨3, 150, 0, 0, 0x00020000⟩) = some (.ok (.word 0x000204B3)) := by decide  -- R141

theorem test_packr4 : gave (.packr4 ⟨4, 3, 1, 0, 0, 0, 0, 0, 200, 2, 1, 0⟩) = some (.ok (.word 0x00AC803C)) := by
  decide  -- R142

theorem test_packr5 : gave (.packr5 ⟨5, 1, 0x00180000⟩) = some (.ok (.word 0x00580005)) := by decide  -- R143

theorem test_unpackblk : gave (.unpackblk x0Bytes) = some (.ok (.block x0)) ∧
    gave (.unpackblk (x0Bytes.drop 1)) = bad .length ∧ gave (.unpackblk (0 :: x0Bytes)) = bad .length := by decide  -- T43, T42

theorem test_packblk : gave (.packblk x1) = some (.ok (.bytes x1Bytes)) := by decide  -- R145

/-! ## Value codes -/

theorem test_dbf : gave (.dbfenc 16) = some (.ok (.word 4)) ∧ gave (.dbfenc 3) = bad .dbf ∧ gave (.dbfenc 0) = bad .dbf ∧
    gave (.dbfdec 4) = some (.ok (.word 16)) ∧ gave (.dbfdec 7) = some (.error (.reservedCode .dividerSelect 7)) ∧
    gave (.dbfdec 8) = bad .code := by decide  -- T44, T45

theorem test_rfl : gave (.rflenc (BitVec.ofInt 32 (-4))) = some (.ok (.word 0)) ∧ gave (.rflenc 3) = bad .rfLevel ∧
    gave (.rfldec 1) = some (.ok (.level (BitVec.ofInt 32 (-1)))) ∧ gave (.rfldec 4) = bad .code := by decide  -- T50, T51, T46

theorem test_lsp : gave (.lspenc true) = some (.ok (.word 3)) ∧ gave (.lspdec 3) = some (.ok (.bool true)) ∧
    gave (.lspdec 2) = some (.error (.reservedCode .lowSpur 2)) ∧ gave (.lspdec 4) = bad .code := by decide  -- T47

/-! ## Projections -/

theorem test_getfs : gave (.getfs x0) = some (.ok (.setting ⟨350, 5, 8, 1⟩)) ∧
    gave (.getfs { x0 with r4 := 0x005C803C }) = some (.error (.reservedCode .dividerSelect 5)) := by decide  -- T55, T56

theorem test_setfs : gave (.setfs x0 ⟨400, 0, 1, 4⟩) = some (.ok (.block x1)) ∧
    gave (.setfs x0 ⟨70000, 0, 1, 3⟩) = bad (.field .ncount) ∧
    gave (.setfs x0 ⟨0, 0, 0, 1⟩) = bad (.field .mod) := by decide  -- T57, T58

theorem test_setfs_keeps : gave (.setfs x0 ⟨1, 5, 5, 1⟩) = some (.ok (.block { x0 with r0 := 0x80008028, r1 := 0xA8008029 })) := by
  decide  -- T59

theorem test_getopt : gave (.getopt x0) = some (.ok (.options ⟨false, false, 0, false⟩)) ∧
    gave (.getopt { x0 with r2 := 0x38000E42 }) = some (.error (.reservedCode .lowSpur 1)) := by decide  -- T5A, T5B

theorem test_setopt : gave (.setopt x0 ⟨true, false, 5, true⟩) = some (.ok (.block { x0 with r2 := 0x7A014E42 })) ∧
    gave (.setopt x0 ⟨true, false, 1024, true⟩) = bad (.field .r) := by decide  -- T5A, T5B

theorem test_getrfl : gave (.getrfl { x0 with r4 := 0x008C8024 }) = some (.ok (.level (BitVec.ofInt 32 (-4)))) := by
  decide  -- T53

theorem test_setrfl : gave (.setrfl x0 (BitVec.ofInt 32 (-1))) = some (.ok (.block { x0 with r4 := 0x008C802C })) ∧
    gave (.setrfl x0 3) = bad .rfLevel := by decide  -- T52, T54

/-! ## Fraction reducer -/

theorem test_gcd : gave (.gcd 4294967295 65535) = some (.ok (.word 65535)) ∧ gave (.gcd 5 0) = some (.ok (.word 5)) ∧
    gave (.gcd 0 0) = some (.ok (.word 0)) := by decide  -- T62, T61

theorem test_reduce : gave (.reduce 325 1000) = some (.ok (.fraction 13 40)) ∧
    gave (.reduce 7 0) = some (.ok (.fraction 0 1)) ∧ gave (.reduce 4095 4095) = some (.ok (.fraction 1 1)) ∧
    gave (.reduce 6 4) = some (.ok (.fraction 3 2)) := by decide  -- T64, T65, T66, T69

/-! ## Exchanges and wire commands -/

theorem test_mkaddr : gave (.mkaddr .setLabel (some .b)) = some (.ok (.byte 0x0A)) ∧
    gave (.mkaddr .setRef (some .b)) = some (.ok (.byte 0x01)) ∧ gave (.mkaddr .flash none) = some (.ok (.byte 0x40)) ∧
    gave (.mkaddr .getRegs none) = bad .missingId := by decide  -- T91, T92

theorem test_xwrite : seen (exec (.xwrite 0x40 []) (withLink [gives [0x15]])) =
    some ([.error (.protocol 0x15)], [[0x40, 0x40]]) ∧
    seen (exec (.xwrite 0x40 []) (withLink [takes 1])) =
    some ([.error (.transport .txWrite 2 1)], [[0x40, 0x40]]) := by decide  -- R171; T97

/-- N30: an unlisted address, no acknowledgement: the device is what the draw says, unchanged only where it says so (log entry 18). -/
theorem test_xwrite_unlisted : ((nextOf (exec (.xwrite 0x09 [1])
      (withLink [{ gives [] with applied := true, drift := some device1 }]))).device = device1) ∧
    ((nextOf (exec (.xwrite 0x09 [1]) (withLink [gives []]))).device = resetDevice) := by decide

theorem test_xread : seen (exec (.xread 0x81 4) (withLink [gives [0x00, 0x98, 0x96, 0x81, 0xAE]])) =
    some ([.error (.checksum 0xAF 0xAE)], [[0x81]]) := by decide  -- P5, call 1

theorem test_xread_short : seen (exec (.xread 0x81 4) (withLink [takes 0])) =
    some ([.error (.transport .txWrite 1 0)], [[0x81]]) := by decide  -- T96

theorem test_get_regs : seen (exec (.getRegs .a) (withLink [gives (x0Bytes ++ [0x86])])) =
    some ([.ok (.block x0)], [[0x80]]) := by decide  -- R174

theorem test_set_regs : seen (exec (.setRegs .b x1) (withLink [gives [0x06]])) =
    some ([.ok .none], [0x08 :: x1Bytes ++ [0x67]]) := by decide  -- T81

theorem test_get_label : seen (exec (.getLabel .b) (withLink [gives (lo2 ++ [0xCD])])) =
    some ([.ok (.bytes lo2)], [[0x8A]]) := by decide  -- R176

theorem test_set_label : seen (exec (.setLabel .b lo2) (withLink [gives [0x06]])) =
    some ([.ok .none], [0x0A :: lo2 ++ [0xD7]]) := by decide  -- R177

theorem test_get_vco : seen (exec (.getVco .b) (withLink [gives [0x08, 0xFC, 0x11, 0x30, 0x45]])) =
    some ([.ok (.vco ⟨2300, 4400⟩)], [[0x8B]]) := by decide  -- T84

theorem test_set_vco : seen (exec (.setVco .b 2300 4400) (withLink [gives [0x06]])) =
    some ([.ok .none], [[0x0B, 0x08, 0xFC, 0x11, 0x30, 0x50]]) := by decide  -- T85

theorem test_get_ref : seen (exec .getRef (withLink [gives [0x00, 0x98, 0x96]])) =
    some ([.error (.transport .rxRead 5 3)], [[0x81]]) := by decide  -- P5, call 2

theorem test_set_ref : seen (exec (.setRef 10000000) (withLink [gives [0x06]])) =
    some ([.ok .none], [[0x01, 0x00, 0x98, 0x96, 0x80, 0xAF]]) := by decide  -- T87

theorem test_get_status : seen (exec (.getStatus .b) (withLink [gives [0x10, 0x10]])) =
    some ([.ok (.byte 0x10)], [[0x8E]]) := by decide  -- T88

theorem test_set_refsel : seen (exec (.setRefsel true) (withLink [gives [0x06]])) =
    some ([.ok .none], [[0x06, 0x01, 0x07]]) := by decide  -- T89

theorem test_flash : seen (exec .flash (withLink [gives [0x06]])) = some ([.ok .none], [[0x40, 0x40]]) := by decide  -- T90

/-! ## Controller functions -/

theorem test_set_rf_level_bad : seen (call (.setRfLevel .a 3) (withLink [takes 0])) =
    some ([.error (.invalidArgument .rfLevel)], []) := by decide  -- T95

theorem test_set_rf_level : seen (call (.setRfLevel .a (BitVec.ofInt 32 (-1))) (attached 2)) =
    some ([.ok .none], [[0x80], [0x00, 0x80, 0xAF, 0x00, 0x28, 0xA8, 0x00, 0x80, 0x41, 0x18, 0x00, 0x0E, 0x42, 0x00, 0x02, 0x04,
      0xB3, 0x00, 0x8C, 0x80, 0x2C, 0x00, 0x58, 0x00, 0x05, 0x76]]) := by decide  -- P3, call 2

theorem test_set_options_nack : seen (call (.setOptions .a ⟨true, false, 5, true⟩) { attached 1 with
      link := [idealDraw, gives [0x15]] }) =
    some ([.error (.protocol 0x15)], [[0x80], [0x00, 0x80, 0xAF, 0x00, 0x28, 0xA8, 0x00, 0x80, 0x41, 0x7A, 0x01, 0x4E, 0x42,
      0x00, 0x02, 0x04, 0xB3, 0x00, 0x8C, 0x80, 0x3C, 0x00, 0x58, 0x00, 0x05, 0x29]]) := by decide  -- P4

theorem test_set_label_call : seen (call (.setLabel .b [0x4C, 0x4F, 0x32]) (attached 1)) =
    some ([.ok .none], [0x0A :: lo2 ++ [0xD7]]) := by decide  -- P2

theorem test_get_options_reserved : seen (call (.getOptions .a) { attached 1 with
      device := { device1 with bankA := { device1.bankA with regs := { x0 with r2 := 0x58000E42 } } } }) =
    some ([.error (.reservedCode .lowSpur 2)], [[0x80]]) := by decide  -- T98

theorem test_get_frequency_checksum : seen (call (.getFrequency .a) (withLink [gives (x0Bytes ++ [0x87])])) =
    some ([.error (.checksum 0x86 0x87)], [[0x80]]) := by decide  -- T99

theorem test_set_frequency : seen (call (.setFrequency .a 1000 none) (attached 5)) =
    some ([.ok .none], [[0x83], [0x81], [0x80], [0x80], 0x00 :: x1Bytes ++ [0x5F]]) := by decide +kernel  -- P1, call 1

theorem test_set_frequency_fine : seen (call (.setFrequency .a (9613 / 4) (some (1 / 100))) (attached 5)) =
    some ([.ok .none], [[0x83], [0x81], [0x80], [0x80], [0x00, 0x80, 0x78, 0x00, 0x68, 0xA8, 0x00, 0x81, 0x41, 0x18, 0x00, 0x0E,
      0x42, 0x00, 0x02, 0x04, 0xB3, 0x00, 0x8C, 0x80, 0x3C, 0x00, 0x58, 0x00, 0x05, 0x90]]) := by decide +kernel  -- P7

theorem test_set_frequency_truncated :
    (computeSetting true (2403257 / 1000) (1 / 100) 10 1).toOption = some ⟨240, 163, 500, 1⟩ ∧
    (computeSetting false (2403257 / 1000) (1 / 100) 10 1).toOption = some ⟨240, 13, 40, 1⟩ := by decide +kernel  -- T72

theorem test_set_frequency_too_wide : seen (call (.setFrequency .a (4002501 / 1000) (some (1 / 1000))) (attached 5)) =
    some ([.error (.invalidArgument (.field .mod))], [[0x83], [0x81], [0x80], [0x80]]) := by decide +kernel  -- T77

theorem test_set_frequency_epdf_zero : seen (call (.setFrequency .a 1000 none) { attached 5 with
      device := { device1 with reference := 0 } }) =
    some ([.error (.invalidArgument .epdfZero)], [[0x83], [0x81], [0x80]]) := by decide +kernel  -- T79

theorem test_divider : chooseDivider 2300 2300 = 2 ∧ chooseDivider (4601 / 2) 2300 = 1 ∧ chooseDivider 100 2300 = 16 := by
  decide +kernel  -- R233, T73, T74

theorem test_get_frequency :
    (frequencyOf ⟨460, 1, 5, 2⟩ (epdfOf 10000000 ⟨true, false, 4, false⟩)).toOption = some (2301 / 2) := by
  decide +kernel  -- T75

/-! ## The step -/

theorem test_step_table_word : seen (step (State.reset.withFetchWord 8 0x3C)) = some ([.ok (.word 0)], []) := by decide

theorem test_step_unassigned : seen (step { State.reset with requests := [.encoded .op [0x3F]] }) =
    some ([.error (.invalidArgument .opSelect)], []) := by decide  -- R75

theorem test_status_codes : statusCode (.ok .none) = 0 ∧ statusCode (.error (.transport .txWrite 2 1)) = 1 ∧
    statusCode (.error (.checksum 0 1)) = 2 ∧ statusCode (.error (.protocol 0x15)) = 3 ∧
    statusCode (.error (.invalidArgument .code)) = 4 ∧ statusCode (.error (.reservedCode .lowSpur 1)) = 5 := by decide  -- R250

/-! ## Witnesses: for each statement with hypotheses, values that meet them together, at the ends of their ranges

The state of most is `State.reset`, which the hypotheses do not constrain. -/

/-- SingleBitFlipIsDetected. -/
theorem witness_bit_flip : exec (.ckverify [0x4C, 0x4F, 0x32] 0xCD) State.reset =
      .next (State.reset.respond (.ok (.bool true))) ∧ 7 < 8 ∧ 2 < [0x4C, 0x4F, 0x32].length ∧
    (([0x4C, 0x4F, 0x32] : Bytes).getD 0 0).getLsbD 0 = false ∧ (([0x4C, 0x4F, 0x32] : Bytes).getD 1 0).getLsbD 0 = true ∧
    (([0x4C, 0x4F, 0x32] : Bytes).getD 2 0).getLsbD 7 = false :=
  ⟨rfl, by decide, by decide, by decide, by decide, by decide⟩

/-- AckchkAcceptsOnlyAck, RespchkSplitsAndVerifies: too many bytes, too few, just enough. -/
theorem witness_lengths : 1 < ([0x06, 0x06] : Bytes).length ∧ ([0x10] : Bytes).length < 1 + 1 ∧
    1 + 1 < ([1, 2, 3] : Bytes).length ∧ ([0x10, 0x11] : Bytes) = [0x10] ++ [0x11] ∧ ([0x10] : Bytes).length = 1 := by decide

/-- IntegerCodecsAreInverse. -/
theorem witness_codec_lengths : ([1, 2, 3, 4] : Bytes).length = 4 ∧ ([1, 2] : Bytes).length = 2 := by decide

/-- FgetExtractsTheField, FsetChangesOnlyTheField: the widest and the highest field, a field of no width, one that leaves the word, a
value too large by one. -/
theorem witness_fields : (1 ≤ 32 ∧ 0 + 32 ≤ 32) ∧ (1 ≤ 1 ∧ 31 + 1 ≤ 32) ∧ 0 < 1 ∧ 32 < 31 + 2 ∧
    2 ^ 12 ≤ (4096 : Word).toNat ∧ (4095 : Word).toNat < 2 ^ 12 := by decide

/-- FieldAccessorsAgree: two fields side by side. -/
theorem witness_disjoint : 1 ≤ 12 ∧ 3 + 12 ≤ 32 ∧ 1 ≤ 16 ∧ 15 + 16 ≤ 32 ∧ 3 + 12 ≤ 15 ∧ (4095 : Word).toNat < 2 ^ 12 ∧
    (65535 : Word).toNat < 2 ^ 16 := by decide

/-- PackRegisters2And4: a record that fits at every bound, and one too large by one; UnpackAfterPackIsIdentity. -/
theorem witness_pack :
    gave (.packr2 ⟨7, 1, 1, 1, 1, 1, 1, 15, 1, 1023, 1, 1, 7, 3, 0x80000000⟩) = some (.ok (.word 0xFFFFFFFF)) ∧
    gave (.packr2 ⟨7, 1, 1, 1, 1, 1, 1, 15, 1, 1024, 1, 1, 7, 3, 0⟩) = bad (.field .r) ∧
    gave (.packr4 ⟨7, 3, 1, 3, 1, 1, 1, 1, 255, 7, 1, 0xFF000000⟩) = some (.ok (.word 0xFFFFFFFF)) ∧
    gave (.packr4 ⟨7, 3, 1, 3, 1, 1, 1, 1, 256, 7, 1, 0⟩) = bad (.field .bandSelectClockDiv) := by decide

/-- UnpackAfterPackIsIdentity: each of the six packs accepts a record. -/
theorem witness_pack_accepts : ∃ u0 u1 u2 u3 u4 u5, ∃ w : Word,
    exec (.packr0 u0) State.reset = .next (State.reset.respond (.ok (.word w))) ∧
    exec (.packr1 u1) State.reset = .next (State.reset.respond (.ok (.word w))) ∧
    exec (.packr2 u2) State.reset = .next (State.reset.respond (.ok (.word w))) ∧
    exec (.packr3 u3) State.reset = .next (State.reset.respond (.ok (.word w))) ∧
    exec (.packr4 u4) State.reset = .next (State.reset.respond (.ok (.word w))) ∧
    exec (.packr5 u5) State.reset = .next (State.reset.respond (.ok (.word w))) :=
  ⟨⟨5, 0, 0, 0⟩, ⟨5, 0, 0, 0, 0⟩, ⟨5, 0, 0, 0, 0, 0, 0, 0, 0, 0, 0, 0, 0, 0, 0⟩, ⟨5, 0, 0, 0, 0⟩,
    ⟨5, 0, 0, 0, 0, 0, 0, 0, 0, 0, 0, 0⟩, ⟨5, 0, 0⟩, 5, rfl, rfl, rfl, rfl, rfl, rfl⟩

/-- RegisterBlockCodec. -/
theorem witness_block : x0Bytes.length = 24 ∧ (x0Bytes.drop 1).length ≠ 24 ∧ (0 :: x0Bytes).length ≠ 24 := by decide

/-- ValueCodesMapBothWays: each end of each range. -/
theorem witness_codes : 4 < 5 ∧ (∀ c < 5, (3 : Word) ≠ BitVec.twoPow 32 c) ∧ (5 ≤ (5 : Word).toNat ∧ (5 : Word).toNat ≤ 7) ∧
    (5 ≤ (7 : Word).toNat ∧ (7 : Word).toNat ≤ 7) ∧ 8 ≤ (8 : Word).toNat ∧
    (BitVec.ofInt 32 (-4)).toInt = 3 * ((0 : Nat) : Int) - 4 ∧ (5 : SWord).toInt = 3 * ((3 : Nat) : Int) - 4 ∧
    (∀ c : Nat, c < 4 → (3 : SWord).toInt ≠ 3 * (c : Int) - 4) ∧ 4 ≤ (4 : Word).toNat ∧ 1 ≤ (1 : Word).toNat ∧
    (2 : Word).toNat ≤ 2 := by decide

/-- ProjectionsReadTheFields: divider codes 0 and 5, low_spur 0, 3 and 1. -/
theorem witness_projections : x0.r4.toNat / 2 ^ 20 % 8 < 5 ∧ 5 ≤ (0x005C803C : Word).toNat / 2 ^ 20 % 8 ∧
    x0.r2.toNat / 2 ^ 29 % 4 = 3 * false.toNat ∧ (0x7A014E42 : Word).toNat / 2 ^ 29 % 4 = 3 * true.toNat ∧
    (0x38000E42 : Word).toNat / 2 ^ 29 % 4 = 1 ∧ (0x58000E42 : Word).toNat / 2 ^ 29 % 4 = 2 := by decide

/-- SetfsChangesOnlyItsFields: a setting at every bound, and one refused at each test. -/
theorem witness_setfs : ((65535 : Word).toNat < 65536 ∧ (4095 : Word).toNat < 4096 ∧ (4095 : Word) ≠ 0 ∧ 4 < 5 ∧
      (16 : Word).toNat = 2 ^ 4) ∧ 65536 ≤ (65536 : Word).toNat ∧ 4096 ≤ (4096 : Word).toNat ∧
    (∀ c < 5, (3 : Word).toNat ≠ 2 ^ c) := by decide

/-- SetoptChangesOnlyItsFields. -/
theorem witness_setopt : 1024 ≤ (1024 : Word).toNat ∧ (1023 : Word).toNat < 1024 := by decide

/-- UnmappedBitsArePreserved. -/
theorem witness_unmapped : exec (.setfs x0 ⟨400, 0, 1, 4⟩) State.reset = .next (State.reset.respond (.ok (.block x1))) ∧
    exec (.setopt x0 ⟨true, false, 5, true⟩) State.reset =
      .next (State.reset.respond (.ok (.block { x0 with r2 := 0x7A014E42 }))) ∧
    exec (.setrfl x0 (BitVec.ofInt 32 (-1))) State.reset =
      .next (State.reset.respond (.ok (.block { x0 with r4 := 0x008C802C }))) := ⟨rfl, rfl, rfl⟩

/-- GcdAndReduce, ReduceGuarantees. -/
theorem witness_reduce : (4095 : Word) ≠ 0 ∧ (4095 : Word).toNat < 4096 ∧ ((0 : Word) = 0 ∨ (7 : Word) = 0) := by decide

/-- MkaddrFollowsTheCommandTable: a per-channel command and a shared one. -/
theorem witness_mkaddr : (Command.getRegs, (0x80 : Byte), true, 24) ∈ commandTable ∧
    (Command.flash, (0x40 : Byte), false, 0) ∈ commandTable := by decide

/-- XwriteOutcomes, AcknowledgedWritesComplete: a short write, no byte, a wrong byte, ACK; at a listed address and at another. -/
theorem witness_xwrite : accepted (nextDraw (withLink [takes 1])) (0 + 2) < 0 + 2 ∧
    WriteAnswered (withLink [gives []]) 0x40 [] [] ∧ (0x15 : Byte) ≠ 0x06 ∧
    WriteAnswered (withLink [gives [0x15]]) 0x40 [] [0x15] ∧ WriteAnswered (withLink [gives [0x06]]) 0x40 [] [0x06] ∧
    WriteAnswered (withLink [gives []]) 0x09 [1] [] ∧ WriteAnswered (withLink [gives [0x06]]) 0x09 [1] [0x06] :=
  ⟨by decide, ⟨rfl, rfl⟩, by decide, ⟨rfl, rfl⟩, ⟨rfl, rfl⟩, ⟨rfl, rfl⟩, ⟨rfl, rfl⟩⟩

/-- XreadOutcomes: a short write, a short response, a whole one. -/
theorem witness_xread : accepted (nextDraw (withLink [takes 0])) 1 = 0 ∧ ([0x00, 0x98, 0x96] : Bytes).length < 4 + 1 ∧
    ReadAnswered (withLink [gives [0x00, 0x98, 0x96]]) 0x81 4 [0x00, 0x98, 0x96] ∧
    ReadAnswered (withLink [gives [0x10, 0x11]]) 0x86 1 ([0x10] ++ [0x11]) :=
  ⟨by decide, by decide, ⟨rfl, rfl⟩, ⟨rfl, rfl⟩⟩

/-- AcknowledgedWritesComplete: each of its six. -/
theorem witness_acknowledged : lo2.length = 16 ∧
    WriteAnswered (withLink [gives [0x06]]) (channelAddress 0x00 .b) (blockBytes x0) [0x06] ∧
    WriteAnswered (withLink [gives [0x06]]) (channelAddress 0x02 .b) lo2 [0x06] ∧
    WriteAnswered (withLink [gives [0x06]]) (channelAddress 0x03 .a) (vcoBytes ⟨2300, 4400⟩) [0x06] ∧
    WriteAnswered (withLink [gives [0x06]]) 0x01 (bigEndian 4 (10000000 : Word).toNat) [0x06] ∧
    WriteAnswered (withLink [gives [0x06]]) 0x06 [BitVec.ofNat 8 true.toNat] [0x06] :=
  ⟨rfl, ⟨rfl, rfl⟩, ⟨rfl, rfl⟩, ⟨rfl, rfl⟩, ⟨rfl, rfl⟩, ⟨rfl, rfl⟩⟩

/-- ReadCommandsAnswerValidResponses: a valid response for each. -/
theorem witness_read_valid :
    ReadAnswered (attached 1) (channelAddress 0x80 .a) 24 (replyOf (blockBytes x0)) ∧
    ReadAnswered (withLink [gives (replyOf lo2)]) (channelAddress 0x82 .b) 16 (replyOf lo2) ∧
    ReadAnswered (attached 1) (channelAddress 0x83 .a) 4 (replyOf (vcoBytes ⟨2300, 4400⟩)) ∧
    ReadAnswered (attached 1) 0x81 4 (replyOf (bigEndian 4 (10000000 : Word).toNat)) ∧
    ReadAnswered (withLink [gives [0x10, 0x10]]) (channelAddress 0x86 .b) 1 [0x10, 0x10] := by
  refine ⟨⟨rfl, ?_⟩, ⟨rfl, ?_⟩, ⟨rfl, ?_⟩, ⟨rfl, ?_⟩, ⟨rfl, rfl⟩⟩ <;> decide

/-- ReadCommandsAnswerValidResponses, FailedReadWritesNothing: an XREAD, and a GET_REGS, that answers an error. -/
theorem witness_read_error : ∃ t e, t.responses = (withLink [takes 0]).responses ++ [.error e] ∧
    exec (.xread (channelAddress 0x80 .a) 24) (withLink [takes 0]) = .next t ∧
    exec (.getRegs .a) (withLink [takes 0]) = .next t ∧ (1023 : Word).toNat < 1024 ∧ (5 : SWord).toInt = 5 :=
  ⟨nextOf (exec (.getRegs .a) (withLink [takes 0])), .transport .txWrite 1 0, rfl, rfl, rfl, by decide, by decide⟩

/-- ArgumentErrorsPrecedeTheWire. -/
theorem witness_arguments : (3 : SWord).toInt ≠ -4 ∧ (3 : SWord).toInt ≠ -1 ∧ (3 : SWord).toInt ≠ 2 ∧ (3 : SWord).toInt ≠ 5 ∧
    1024 ≤ (1024 : Word).toNat ∧ (0 : Rat) ≤ 0 := by decide +kernel

/-- GettersAnswerTheDevice, DirectSettersWriteOnce, RmwSettersRewriteTheBlock. -/
theorem witness_attached : IdealLink (attached 1) 1 ∧ IdealLink (attached 2) 2 ∧
    exec (.getrfl ((attached 1).device.bank .a).regs) (attached 1) = .next ((attached 1).respond (.ok (.level 5))) ∧
    exec (.getopt ((attached 1).device.bank .a).regs) (attached 1) =
      .next ((attached 1).respond (.ok (.options ⟨false, false, 0, false⟩))) ∧
    exec (.setrfl ((attached 2).device.bank .a).regs (BitVec.ofInt 32 (-1))) (attached 2) =
      .next ((attached 2).respond (.ok (.block { x0 with r4 := 0x008C802C }))) ∧
    exec (.setopt ((attached 2).device.bank .a).regs ⟨true, false, 5, true⟩) (attached 2) =
      .next ((attached 2).respond (.ok (.block { x0 with r2 := 0x7A014E42 }))) :=
  ⟨⟨[], rfl⟩, ⟨[], rfl⟩, rfl, rfl, rfl, rfl⟩

/-- NackLeavesTheRegisters. -/
theorem witness_nack : (5 : Word).toNat < 1024 ∧ (withLink [idealDraw, gives [0x15]]).link = idealDraw :: gives [0x15] :: [] ∧
    (gives [0x15]).accepted = none ∧ (gives [0x15]).answer = .bytes [0x15] := by decide

/-- DividerIsTheSmallestThatFits: the first divider fits, the last is reached, an equal product doubles again. -/
theorem witness_divider : chooseDivider 2301 2300 = 2 ^ 0 ∧ chooseDivider 0 2300 = 2 ^ 4 ∧ chooseDivider 1150 2300 = 2 ^ 2 := by
  decide +kernel

theorem answer_next (p : Except Error Value × State) : answer p = .next (nextOf (answer p)) := rfl

/-- SetFrequencyRewritesOnlyItsFields, FrequencyRoundTripIsWithinTheBound, SetFrequencyScenario: P1's state. -/
theorem witness_set_frequency : ∃ t, IdealLink (attached 8) 5 ∧ IdealLink (attached 8) 8 ∧
    step ((attached 8).pushRequest (.call (.setFrequency .a 1000 none))) = .next t ∧
    t.responses = (attached 8).responses ++ [.ok .none] ∧ (attached 8).device.reference = 10000000 ∧
    (attached 8).device.bankA.vco.low = 2300 ∧
    exec (.getopt ((attached 8).device.bank .a).regs) (attached 8) =
      .next ((attached 8).respond (.ok (.options ⟨false, false, 0, false⟩))) :=
  ⟨nextOf (call (.setFrequency .a 1000 none) (attached 8)), ⟨List.replicate 3 idealDraw, rfl⟩, ⟨[], rfl⟩,
    answer_next _, by decide +kernel, rfl, rfl, rfl⟩

/-- GettersAnswerTheDevice, the clauses about getFrequency: a setting with `mod` of 8, one with `mod` of 0, a reserved divider. -/
theorem witness_get_frequency : IdealLink (attached 3) 3 ∧ IdealLink (attached 3) 1 ∧
    exec (.getfs ((attached 3).device.bank .a).regs) (attached 3) =
      .next ((attached 3).respond (.ok (.setting ⟨350, 5, 8, 1⟩))) ∧
    exec (.getfs ((attached 3).device.bank .b).regs) (attached 3) =
      .next ((attached 3).respond (.ok (.setting ⟨0, 0, 0, 1⟩))) ∧
    exec (.getfs { x0 with r4 := 0x00DC803C }) (attached 3) =
      .next ((attached 3).respond (.error (.reservedCode .dividerSelect 5))) ∧
    exec (.getopt ((attached 3).device.bank .a).regs) (attached 3) =
      .next ((attached 3).respond (.ok (.options ⟨false, false, 0, false⟩))) :=
  ⟨⟨[], rfl⟩, ⟨List.replicate 2 idealDraw, rfl⟩, rfl, rfl, rfl, rfl⟩

/-- P1's device with these exchanges to come and these byte strings sent. -/
def along (l : List Draw) (frames : List Bytes) : State := { State.reset with device := device1, link := l, sent := frames }

/-- FailedReadWritesNothing, the clauses about setFrequency: GET_VCO fails; GET_REF fails after it; GET_REGS fails after both. -/
theorem witness_set_frequency_read_fails : (0 : Rat) < (none : Option Rat).getD 10 ∧
    exec (.getVco .a) (along [takes 0] []) = .next ((along [] [[0x83]]).respond (.error (.transport .txWrite 1 0))) ∧
    exec (.getVco .a) (along [idealDraw, takes 0] []) =
      .next ((along [takes 0] [[0x83]]).respond (.ok (.vco ⟨2300, 4400⟩))) ∧
    exec .getRef (along [takes 0] [[0x83]]) =
      .next ((along [] [[0x83], [0x81]]).respond (.error (.transport .txWrite 1 0))) ∧
    exec .getRef (along [idealDraw, takes 0] [[0x83]]) =
      .next ((along [takes 0] [[0x83], [0x81]]).respond (.ok (.word 10000000))) ∧
    exec (.getRegs .a) (along [takes 0] [[0x83], [0x81]]) =
      .next ((along [] [[0x83], [0x81], [0x80]]).respond (.error (.transport .txWrite 1 0))) :=
  ⟨by decide +kernel, rfl, rfl, rfl, rfl, rfl⟩

/-- FailedReadWritesNothing: registers read whose low_spur code is reserved (T98). -/
theorem witness_set_frequency_reserved : ∃ x,
    exec (.getRegs .a) (along [gives (replyOf (blockBytes { x0 with r2 := 0x58000E42 }))] [[0x83], [0x81]]) =
      .next ((along [] [[0x83], [0x81], [0x80]]).respond (.ok (.block x))) ∧
    exec (.getopt x) (along [] [[0x83], [0x81], [0x80]]) =
      .next ((along [] [[0x83], [0x81], [0x80]]).respond (.error (.reservedCode .lowSpur 2))) :=
  ⟨_, rfl, rfl⟩

/-- FailedReadWritesNothing, SetFrequencyWritesTheComputedSetting: the three reads of P1 and a fourth, valid or not, with an EPDF of
10 MHz. -/
theorem witness_set_frequency_reads : (0 : Rat) ≤ 1000 ∧
    ReadForSetFrequency (along (List.replicate 4 idealDraw) []) .a ⟨2300, 4400⟩ 10000000 ⟨false, false, 0, false⟩
      (along [idealDraw] [[0x83], [0x81], [0x80]]) ∧
    exec (.getRegs .a) (along [idealDraw] [[0x83], [0x81], [0x80]]) =
      .next ((along [] [[0x83], [0x81], [0x80], [0x80]]).respond (.ok (.block x0))) ∧
    ReadForSetFrequency (along (List.replicate 3 idealDraw ++ [takes 0]) []) .a ⟨2300, 4400⟩ 10000000
      ⟨false, false, 0, false⟩ (along [takes 0] [[0x83], [0x81], [0x80]]) ∧
    exec (.getRegs .a) (along [takes 0] [[0x83], [0x81], [0x80]]) =
      .next ((along [] [[0x83], [0x81], [0x80], [0x80]]).respond (.error (.transport .txWrite 1 0))) ∧
    effectiveFrequency 10000000 ⟨false, false, 0, false⟩ ≠ 0 :=
  ⟨by decide +kernel, ⟨along (List.replicate 3 idealDraw) [[0x83]], along (List.replicate 2 idealDraw) [[0x83], [0x81]], x0,
    rfl, rfl, rfl, rfl⟩, rfl,
    ⟨along (List.replicate 2 idealDraw ++ [takes 0]) [[0x83]], along [idealDraw, takes 0] [[0x83], [0x81]], x0,
    rfl, rfl, rfl, rfl⟩, rfl, by decide +kernel⟩

/-- SetFrequencyWritesTheComputedSetting, the refusals: a reference of 0 read back, and a negative frequency. -/
theorem witness_set_frequency_refused :
    ReadForSetFrequency (along [idealDraw, gives [0, 0, 0, 0, 0], idealDraw] []) .a ⟨2300, 4400⟩ 0 ⟨false, false, 0, false⟩
      (along [] [[0x83], [0x81], [0x80]]) ∧
    effectiveFrequency 0 ⟨false, false, 0, false⟩ = 0 ∧ (-1 / 2 : Rat) < 0 :=
  ⟨⟨along [gives [0, 0, 0, 0, 0], idealDraw] [[0x83]], along [idealDraw] [[0x83], [0x81]], x0, rfl, rfl, rfl, rfl⟩,
    by decide +kernel, by decide +kernel⟩

/-- EPDF by R230's own example: a doubled reference divided by 4 (5 MHz), and a halved one with no division by `r` of 1. -/
theorem test_effective_frequency : effectiveFrequency 10000000 ⟨true, false, 4, false⟩ = 5 ∧
    effectiveFrequency 10000000 ⟨false, true, 1, false⟩ = 5 := by decide +kernel

/-- FailedReadWritesNothing: a setFrequency on P1's device that SETFS refuses (T77). -/
theorem witness_set_frequency_change_fails :
    (∃ t, step ((attached 5).pushRequest (.call (.setFrequency .a (4002501 / 1000) (some (1 / 1000))))) = .next t ∧
      t.responses = (attached 5).responses ++ [.error (.invalidArgument (.field .mod))]) ∧
    errorCode (.invalidArgument (.field .mod)) ≠ 1 ∧ errorCode (.invalidArgument (.field .mod)) ≠ 3 :=
  ⟨⟨nextOf (call (.setFrequency .a (4002501 / 1000) (some (1 / 1000))) (attached 5)), answer_next _, by decide +kernel⟩,
    by decide, by decide⟩

/-- SetFrequencyWritesTheComputedSetting, each refusal after the reads: `ncount` of 70000 (P1's EPDF of 10), a `frac` of 9999 over
10000, and a negative frequency. -/
theorem test_set_frequency_refusals :
    seen (call (.setFrequency .a 700000 none) (attached 5)) =
      some ([.error (.invalidArgument (.field .ncount))], [[0x83], [0x81], [0x80], [0x80]]) ∧
    seen (call (.setFrequency .a (4009999 / 1000) (some (1 / 1000))) (attached 5)) =
      some ([.error (.invalidArgument (.field .frac))], [[0x83], [0x81], [0x80], [0x80]]) ∧
    seen (call (.setFrequency .a (-1) none) (attached 5)) =
      some ([.error (.invalidArgument .vcoNegative)], [[0x83], [0x81], [0x80]]) := by decide +kernel

/-- DecodeReadsBackEveryEncoding, EncodeGivesBackTheBytes: see the decoding tests; here one with every kind of check. -/
theorem witness_wf : (Instr.setLabel .b lo2).wf = true ∧ (Instr.fset 9 3 12 5).wf = true ∧
    (Instr.respchk [0x10] 4294967295).wf = true ∧ decode .op [0x19, 0x21] = .ok (.strefsel 0x21) := by decide

/-- UnassignedOpSelectIsInvalidArgument: the ends of both ranges. -/
theorem witness_unassigned : { State.reset with requests := [.encoded .op [0x09]] }.requests = .encoded .op (0x09 :: []) :: [] ∧
    (0x09 ≤ (0x09 : Byte).toNat ∧ (0x09 : Byte).toNat ≤ 0x0F) ∧ (0x0F : Byte).toNat ≤ 0x0F ∧ 0x1A ≤ (0x1A : Byte).toNat ∧
    (0x1F : Byte).toNat ≤ 0x1F ∧ (0x3E : Byte).toNat = 0x3E ∧ (0x3F : Byte).toNat = 0x3F := by decide

/-- CommandRequestsAreChecked: a payload one byte short, one byte where there is none, an unlisted address. -/
theorem witness_payload : (Command.setLabel, (0x02 : Byte), true, 16) ∈ commandTable ∧
    (lo2.drop 1).length ≠ (if (0x02 : Byte).toNat < 0x80 then 16 else 0) ∧
    (Command.getRef, (0x81 : Byte), false, 4) ∈ commandTable ∧
    ([0] : Bytes).length ≠ (if (0x81 : Byte).toNat < 0x80 then 4 else 0) ∧ (0x09 : Byte) ∉ listedAddresses := by decide

/-- StepRunsTheDecodedInstruction, StepWithoutRequestChangesNothing. -/
theorem witness_step : (State.reset.withFetchWord 8 0x3C).requests = .encoded .op (0x3C :: List.replicate 8 0) :: [] ∧
    decode .op (0x3C :: List.replicate 8 0) = .ok (.gcd 0 0) ∧ State.reset.requests = [] := by decide

/-- StatusesAreThoseOfTheErrorTable, InstructionsIgnoreTheHistory, NoExchangeIsRepeated, OnlyListedAddressesAreSent: an instruction and
a controller function that answer a next state; PureOperationsIgnoreTheState. -/
theorem witness_answers : (∃ t, exec (.getRegs .a) State.reset = .next t) ∧
    (∃ t, step (State.reset.pushRequest (.call .flash)) = .next t) ∧ (Instr.getRegs .a).space = .command ∧
    isPure (.gcd 1 2) = true := ⟨⟨_, rfl⟩, ⟨_, rfl⟩, rfl, rfl⟩

/-- StepKeepsFramesSent: a state in which something was sent, and a step that sends more. -/
theorem witness_frames : FramesSent { State.reset with sent := [[0x81], [0x40, 0x40]] } ∧
    ∃ t, step ({ State.reset with sent := [[0x81], [0x40, 0x40]] }.pushRequest (.call .flash)) = .next t := by
  refine ⟨fun f hf => ?_, _, rfl⟩
  simp only [List.mem_cons, List.not_mem_nil, or_false] at hf
  rcases hf with rfl | rfl
  · exact .inl rfl
  · exact .inr ⟨0x40, [], rfl⟩

end Sys2Proof.Tests
end

/-! ## What a step does with an encoded request -/

namespace Sys2Proof.Machine

open Sys2Proof

/-- An encoded request that decodes is presented and executed (R8). -/
theorem step_of_decode_ok {s : State} {sp : Space} {bs : Bytes} {rest : List Request} {i : Instr}
    (hreq : s.requests = .encoded sp bs :: rest) (hdec : decode sp bs = .ok i) : step s = exec i (s.present rest) := by
  simp only [step, hreq, hdec]

/-- Settles O49: presenting the oldest request takes it off the queue and changes no other field. -/
theorem stepRunsTheDecodedInstruction : Obligations.StepRunsTheDecodedInstruction :=
  fun _ _ _ _ _ hreq hdec => step_of_decode_ok hreq hdec

end Sys2Proof.Machine

/-! ## The operations without transport (R20) -/

namespace Sys2Proof.Machine

open Sys2Proof

/-- Settles O53: every pure operation is a `give`, and the wire operations are not pure. -/
theorem pureOperationsIgnoreTheState : Obligations.PureOperationsIgnoreTheState := by
  intro i hi
  cases i with
  | xwrite | xread | getRegs | setRegs | getLabel | setLabel | getVco | setVco | getRef | setRef | getStatus | setRefsel
  | flash => nomatch hi
  | _ => exact ⟨_, give_eq _⟩

end Sys2Proof.Machine

/-! ## What an action may depend on: the transport and the device (R20, R259) -/

namespace Sys2Proof.Machine

open Sys2Proof Sys2Proof.Safety

/-- Two states with the same transport and the same device; the host's part of them may differ. -/
structure SameEnvironment (s s' : State) : Prop where
  link : s.link = s'.link
  draws : s.draws = s'.draws
  device : s.device = s'.device

/-- What led from `s` to `t` and from `s'` to `t'` sent the same byte strings, answered nothing yet, and left the same environment. -/
structure SameEffect (s s' t t' : State) : Prop where
  environment : SameEnvironment t t'
  responses : t.responses = s.responses
  responses' : t'.responses = s'.responses
  sent : ∃ frames, t.sent = s.sent ++ frames ∧ t'.sent = s'.sent ++ frames

/-- An action whose result and effect are the same in any two states with the same environment. -/
def IgnoresHistory {α : Type} (m : Action α) : Prop :=
  ∀ s s' : State, SameEnvironment s s' → (m s).1 = (m s').1 ∧ SameEffect s s' (m s).2 (m s').2

section
variable {s s' t t' u u' : State}

theorem SameEnvironment.nextDraw (h : SameEnvironment s s') : nextDraw s = nextDraw s' := by
  rw [Machine.nextDraw, Machine.nextDraw, h.link, h.draws]

theorem SameEnvironment.deviceAtRead (h : SameEnvironment s s') : deviceAtRead s = deviceAtRead s' := by
  rw [Safety.deviceAtRead, Safety.deviceAtRead, h.nextDraw, h.device]

theorem SameEnvironment.writeAnswered {a : Byte} {p rx : Bytes} (h : SameEnvironment s s') (hw : WriteAnswered s a p rx) :
    WriteAnswered s' a p rx := by
  rwa [WriteAnswered, h.nextDraw, h.device] at hw

theorem SameEnvironment.readAnswered {a : Byte} {n : Nat} {rx : Bytes} (h : SameEnvironment s s')
    (hr : ReadAnswered s a n rx) : ReadAnswered s' a n rx := by
  rwa [ReadAnswered, h.nextDraw, h.deviceAtRead] at hr

theorem SameEffect.refl (h : SameEnvironment s s') : SameEffect s s' s s' :=
  ⟨h, rfl, rfl, [], by simp, by simp⟩

theorem SameEffect.trans (h : SameEffect s s' t t') (h' : SameEffect t t' u u') : SameEffect s s' u u' := by
  obtain ⟨frames, hf, hf'⟩ := h.sent
  obtain ⟨more, hm, hm'⟩ := h'.sent
  exact ⟨h'.environment, h'.responses.trans h.responses, h'.responses'.trans h.responses',
    frames ++ more, by rw [hm, hf, List.append_assoc], by rw [hm', hf', List.append_assoc]⟩

theorem SameEnvironment.transmit (h : SameEnvironment s s') (f : Bytes) :
    SameEffect s s' (s.transmit f) (s'.transmit f) :=
  ⟨⟨by simp [h.link], by simp [h.link, h.draws], by simp [h.device]⟩, by simp, by simp, [f], by simp, by simp⟩

theorem SameEffect.withDevice (h : SameEffect s s' t t') (dev : Device) :
    SameEffect s s' { t with device := dev } { t' with device := dev } :=
  ⟨⟨h.environment.link, h.environment.draws, rfl⟩, h.responses, h.responses', h.sent⟩

end

section
variable {α β : Type}

theorem pureStep_ignoresHistory (r : Except Error α) : IgnoresHistory (pureStep r) :=
  fun _ _ h => ⟨rfl, .refl h⟩

theorem andThen_ignoresHistory {m : Action α} {f : α → Action β} (hm : IgnoresHistory m)
    (hf : ∀ a, IgnoresHistory (f a)) : IgnoresHistory (andThen m f) := by
  intro s s' h
  obtain ⟨hr, he⟩ := hm s s' h
  cases hres : (m s).1 with
  | error e =>
    have hs : m s = (.error e, (m s).2) := Prod.ext hres rfl
    have hs' : m s' = (.error e, (m s').2) := Prod.ext (hr ▸ hres) rfl
    rw [andThen_error hs, andThen_error hs']
    exact ⟨rfl, he⟩
  | ok a =>
    have hs : m s = (.ok a, (m s).2) := Prod.ext hres rfl
    have hs' : m s' = (.ok a, (m s').2) := Prod.ext (hr ▸ hres) rfl
    rw [andThen_ok hs, andThen_ok hs']
    obtain ⟨hr', he'⟩ := hf a _ _ he.environment
    exact ⟨hr', he.trans he'⟩

theorem asValue_ignoresHistory {m : Action α} (f : α → Value) (hm : IgnoresHistory m) : IgnoresHistory (asValue f m) :=
  andThen_ignoresHistory hm fun _ => pureStep_ignoresHistory _

theorem xwrite_ignoresHistory (a : Byte) (p : Bytes) : IgnoresHistory (xwrite a p) := by
  intro s s' h
  by_cases hn : accepted (nextDraw s) (p.length + 2) = p.length + 2
  · have hw : WriteAnswered s a p _ := ⟨hn, rfl⟩
    rw [xwrite_answered s a p _ hw, xwrite_answered s' a p _ (h.writeAnswered hw), h.nextDraw, h.device]
    exact ⟨rfl, (h.transmit _).withDevice _⟩
  · rw [xwrite_short s a p hn, xwrite_short s' a p (h.nextDraw ▸ hn), h.nextDraw]
    exact ⟨rfl, h.transmit _⟩

theorem xread_ignoresHistory (a : Byte) (n : Nat) : IgnoresHistory (xread a n) := by
  intro s s' h
  by_cases hn : accepted (nextDraw s) 1 = 1
  · have hr : ReadAnswered s a n _ := ⟨hn, rfl⟩
    rw [xread_answered s a n _ hr, xread_answered s' a n _ (h.readAnswered hr), h.deviceAtRead]
    exact ⟨rfl, (h.transmit _).withDevice _⟩
  · rw [xread_short s a n hn, xread_short s' a n (h.nextDraw ▸ hn), h.nextDraw]
    exact ⟨rfl, h.transmit _⟩

/-- The shape of the reads of R174 to R182: a read exchange, then the decoding of its payload. -/
theorem readThenDecode_ignoresHistory (a : Byte) (n : Nat) (f : Bytes → Except Error α) :
    IgnoresHistory (andThen (xread a n) fun b => pureStep (f b)) :=
  andThen_ignoresHistory (xread_ignoresHistory a n) fun _ => pureStep_ignoresHistory _

theorem writeLabel_ignoresHistory (id : ChannelId) (l : Bytes) : IgnoresHistory (writeLabel id l) := by
  unfold writeLabel
  split
  · exact pureStep_ignoresHistory _
  · exact xwrite_ignoresHistory _ _

end

/-- Every instruction runs an action to its response, and the action reads nothing of the host's history. -/
theorem exec_eq_answer_ignoresHistory (i : Instr) : ∃ m : Action Value, IgnoresHistory m ∧ ∀ s, exec i s = answer (m s) := by
  cases i with
  | xwrite a p => exact ⟨_, asValue_ignoresHistory _ (xwrite_ignoresHistory a p), fun _ => rfl⟩
  | xread a n => exact ⟨_, asValue_ignoresHistory _ (xread_ignoresHistory a n), fun _ => rfl⟩
  | getRegs id => exact ⟨_, asValue_ignoresHistory _ (readThenDecode_ignoresHistory _ _ _), fun _ => rfl⟩
  | getVco id => exact ⟨_, asValue_ignoresHistory _ (readThenDecode_ignoresHistory _ _ _), fun _ => rfl⟩
  | getRef => exact ⟨_, asValue_ignoresHistory _ (readThenDecode_ignoresHistory _ _ _), fun _ => rfl⟩
  | getStatus id => exact ⟨_, asValue_ignoresHistory _ (readThenDecode_ignoresHistory _ _ _), fun _ => rfl⟩
  | getLabel id => exact ⟨_, asValue_ignoresHistory _ (xread_ignoresHistory _ _), fun _ => rfl⟩
  | setLabel id l => exact ⟨_, asValue_ignoresHistory _ (writeLabel_ignoresHistory id l), fun _ => rfl⟩
  | setRegs | setVco | setRef | setRefsel | flash =>
    exact ⟨_, asValue_ignoresHistory _ (xwrite_ignoresHistory _ _), fun _ => rfl⟩
  | _ => exact ⟨_, pureStep_ignoresHistory _, fun _ => rfl⟩

/-- Settles O54: the action an instruction runs ignores the history, and answering adds the one response. -/
theorem instructionsIgnoreTheHistory : Obligations.InstructionsIgnoreTheHistory := by
  intro i s s' t t' hlink hdraws hdevice ht ht'
  obtain ⟨m, hm, hexec⟩ := exec_eq_answer_ignoresHistory i
  obtain ⟨hr, he⟩ := hm s s' ⟨hlink, hdraws, hdevice⟩
  obtain ⟨frames, hf, hf'⟩ := he.sent
  rw [hexec, answer_eq_next] at ht ht'
  cases ht
  cases ht'
  exact ⟨responseOf (m s).1, frames, by simp [he.responses], by simp [he.responses', hr], by simp [hf], by simp [hf'],
    by simp [he.environment.device]⟩

end Sys2Proof.Machine

/-! ## What SETFS, SETOPT and SETRFL leave unchanged (R22, R211, R213, R215) -/

namespace Sys2Proof.Machine

open Sys2Proof Sys2Proof.Safety

/-- R131: a write to a field keeps every bit under a mask that the field lies outside of. -/
theorem putField_and_of_disjoint (w : Word) {off width : Nat} {v mask : Word} (h : off + width ≤ 32)
    (hv : v.toNat < 2 ^ width) (hd : fieldMask off width &&& mask = 0) : putField w off width v &&& mask = w &&& mask := by
  apply BitVec.eq_of_getLsbD_eq
  intro i hi
  rw [BitVec.getLsbD_and, BitVec.getLsbD_and, putField_getLsbD _ _ _ _ h hv i hi]
  split
  case isTrue hin =>
    have hmask : mask.getLsbD i = false := by
      simpa [fieldMask_getLsbD _ _ _ h, hin] using congrArg (·.getLsbD i) hd
    rw [hmask, Bool.and_false, Bool.and_false]
  case isFalse => rfl

theorem bitOf_lt (v : Bool) : (bitOf v).toNat < 2 ^ 1 := by cases v <;> decide

theorem encodeLowSpur_lt (v : Bool) : (encodeLowSpur v).toNat < 2 ^ 2 := by cases v <;> decide

/-- R146: a divider code fits its 3-bit field. -/
theorem encodeDbf_lt {dbf code : Word} (h : encodeDbf dbf = .ok code) : code.toNat < 2 ^ 3 := by
  unfold encodeDbf at h
  split at h <;> cases h <;> decide

/-- R148: a level code fits its 2-bit field. -/
theorem encodeRfLevel_lt {level : SWord} {code : Word} (h : encodeRfLevel level = .ok code) : code.toNat < 2 ^ 2 := by
  unfold encodeRfLevel at h
  split_ifs at h <;> cases h <;> decide

/-- An operation's result under `map` is the image of a result. -/
theorem map_eq_ok {α β : Type} {f : α → β} {r : Except Error α} {b : β} : r.map f = .ok b ↔ ∃ a, r = .ok a ∧ f a = b := by
  cases r <;> simp [Except.map]

/-- R211: what a SETFS that answers a block did, with the tests it passed. -/
theorem setSetting_eq_ok {x x' : RegBlock} {fs : FrequencySetting} (h : setSetting x fs = .ok x') :
    ∃ code, fs.ncount.toNat < 65536 ∧ fs.frac.toNat < 4096 ∧ fs.mod.toNat < 4096 ∧ fs.mod ≠ 0 ∧
      encodeDbf fs.dbf = .ok code ∧
      x' = { x with
        r0 := putField (putField x.r0 15 16 fs.ncount) 3 12 fs.frac
        r1 := putField x.r1 3 12 fs.mod
        r4 := putField x.r4 20 3 code } := by
  unfold setSetting at h
  split_ifs at h with hn hf hm
  · cases h
  · cases h
  · cases h
  · obtain ⟨code, hc, hx⟩ := map_eq_ok.1 h
    obtain ⟨hm, h0⟩ := not_or.1 hm
    exact ⟨code, not_le.1 hn, not_le.1 hf, not_le.1 hm, h0, hc, hx.symm⟩

/-- R213: what a SETOPT that answers a block did, with the test it passed. -/
theorem setOptionsOf_eq_ok {x x' : RegBlock} {o : Options} (h : setOptionsOf x o = .ok x') :
    o.r.toNat < 1024 ∧ x' = { x with
      r2 := putField (putField (putField (putField x.r2 25 1 (bitOf o.doubleRef)) 24 1 (bitOf o.halfRef)) 14 10 o.r) 29 2
        (encodeLowSpur o.lowSpur) } := by
  unfold setOptionsOf at h
  split_ifs at h with hr
  · cases h
  · cases h
    exact ⟨not_le.1 hr, rfl⟩

/-- R215: what a SETRFL that answers a block did. -/
theorem setLevel_eq_ok {x x' : RegBlock} {level : SWord} (h : setLevel x level = .ok x') :
    ∃ code, encodeRfLevel level = .ok code ∧ x' = { x with r4 := putField x.r4 3 2 code } := by
  obtain ⟨code, hc, hx⟩ := map_eq_ok.1 h
  exact ⟨code, hc, hx.symm⟩

theorem setSetting_unmappedBits {x x' : RegBlock} {fs : FrequencySetting} (h : setSetting x fs = .ok x') :
    unmappedBits x' = unmappedBits x := by
  obtain ⟨code, hn, hf, hm, -, hc, rfl⟩ := setSetting_eq_ok h
  simp only [unmappedBits, RegBlock.mk.injEq, and_true, true_and]
  refine ⟨?_, putField_and_of_disjoint _ (by decide) hm (by decide),
    putField_and_of_disjoint _ (by decide) (encodeDbf_lt hc) (by decide)⟩
  rw [putField_and_of_disjoint _ (by decide) hf (by decide), putField_and_of_disjoint _ (by decide) hn (by decide)]

theorem setOptionsOf_unmappedBits {x x' : RegBlock} {o : Options} (h : setOptionsOf x o = .ok x') :
    unmappedBits x' = unmappedBits x := by
  obtain ⟨hr, rfl⟩ := setOptionsOf_eq_ok h
  simp only [unmappedBits, RegBlock.mk.injEq, and_true, true_and]
  rw [putField_and_of_disjoint _ (by decide) (encodeLowSpur_lt _) (by decide),
    putField_and_of_disjoint _ (by decide) hr (by decide), putField_and_of_disjoint _ (by decide) (bitOf_lt _) (by decide),
    putField_and_of_disjoint _ (by decide) (bitOf_lt _) (by decide)]

theorem setLevel_unmappedBits {x x' : RegBlock} {level : SWord} (h : setLevel x level = .ok x') :
    unmappedBits x' = unmappedBits x := by
  obtain ⟨code, hc, rfl⟩ := setLevel_eq_ok h
  simp only [unmappedBits, RegBlock.mk.injEq, and_true, true_and]
  exact putField_and_of_disjoint _ (by decide) (encodeRfLevel_lt hc) (by decide)

/-- An operation that answers the block `x'` computed it. -/
theorem ok_of_give_block {r : Except Error RegBlock} {s : State} {x' : RegBlock}
    (h : give (r.map .block) s = .next (s.respond (.ok (.block x')))) : r = .ok x' := by
  obtain ⟨_, _, hr, hx⟩ := give_map_ok.1 h
  cases hx
  exact hr

/-- Settles O25: each operation writes fields only, and no field holds an unmapped bit. -/
theorem unmappedBitsArePreserved : Obligations.UnmappedBitsArePreserved :=
  fun _ _ _ => ⟨fun _ h => setSetting_unmappedBits (ok_of_give_block h), fun _ h => setOptionsOf_unmappedBits (ok_of_give_block h),
    fun _ h => setLevel_unmappedBits (ok_of_give_block h)⟩

end Sys2Proof.Machine

/-! ## Command requests that are not one of the eleven commands with its payload (R43, R66, R73) -/

namespace Sys2Proof.Machine

open Sys2Proof Sys2Proof.Safety

/-- The payload bytes of a command's request (R67): a write command's payload, and none for a read command, whose payload is the
device's (the addresses from 0x80 on, R66). -/
def requestPayloadLen (c : Command) : Nat := if (baseAddress c).toNat < 0x80 then payloadLen c else 0

/-- The rows of R66 agree with the functions MKADDR and the protocol are written over. -/
theorem mem_commandTable {c : Command} {base : Byte} {per : Bool} {n : Nat} (h : (c, base, per, n) ∈ commandTable) :
    base = baseAddress c ∧ per = perChannel c ∧ n = payloadLen c := by
  have htable : commandTable =
      (commandTable.map Prod.fst).map fun c => (c, baseAddress c, perChannel c, payloadLen c) := by decide
  rw [htable, List.mem_map] at h
  obtain ⟨_, -, hrow⟩ := h
  cases hrow
  exact ⟨rfl, rfl, rfl⟩

/-- R65, R66: the address column of the table, read backwards. -/
theorem commandAt_tableAddress (c : Command) (id : ChannelId) :
    ∃ id', commandAt (if perChannel c then channelAddress (baseAddress c) id else baseAddress c) = some (c, id') := by
  split
  case isTrue hper => exact ⟨id, by rw [← addressOf_eq c id hper, commandAt_addressOf c id hper]⟩
  case isFalse => exact ⟨.a, commandAt_baseAddress c⟩

/-- R73: an address byte outside the eighteen is no command's. -/
theorem commandAt_eq_none {a : Byte} (h : a ∉ listedAddresses) : commandAt a = none := by
  have hnat : a.toNat ∉ listedAddresses.map BitVec.toNat := fun hmem => by
    obtain ⟨b, hb, hab⟩ := List.mem_map.1 hmem
    exact h (BitVec.eq_of_toNat_eq hab ▸ hb)
  unfold commandAt
  split
  case h_19 => rfl
  all_goals
    rename_i hlisted
    rw [hlisted] at hnat
    exact absurd (by decide) hnat

/-- R43: operands that take all of a request's payload take a payload of the command's length. -/
theorem length_of_commandOperands {id : ChannelId} {c : Command} {p : Bytes} {i : Instr}
    (h : commandOperands id c p = some (i, [])) : p.length = requestPayloadLen c := by
  cases c with
  | getRegs | getLabel | getVco | getRef | getStatus | flash => cases h; rfl
  | setRegs =>
    obtain ⟨x, _, hx, hrest⟩ := (takeThen_eq_some _ _ _).1 h
    cases hrest
    rw [(takeRegBlock_eq_some _ _ _).1 hx, List.append_nil]
    rfl
  | setLabel =>
    obtain ⟨l, _, hl, hrest⟩ := (takeThen_eq_some _ _ _).1 h
    cases hrest
    obtain ⟨hlen, rfl⟩ := (takeExact_eq_some _ _ _ _).1 hl
    rw [List.append_nil, hlen]
    rfl
  | setVco =>
    obtain ⟨lo, _, hlo, htail⟩ := (takeThen_eq_some _ _ _).1 h
    obtain ⟨hi, _, hhi, hrest⟩ := (takeThen_eq_some _ _ _).1 htail
    cases hrest
    rw [(takeU16_eq_some _ _ _).1 hlo, (takeU16_eq_some _ _ _).1 hhi]
    rfl
  | setRef =>
    obtain ⟨hz, _, hhz, hrest⟩ := (takeThen_eq_some _ _ _).1 h
    cases hrest
    rw [(takeU32_eq_some _ _ _).1 hhz, List.append_nil]
    rfl
  | setRefsel =>
    obtain ⟨v, _, hv, hrest⟩ := (takeThen_eq_some _ _ _).1 h
    cases hrest
    rw [(takeBool_eq_some _ _ _).1 hv, List.append_nil]
    cases v <;> rfl

/-- R43: a payload of another length leaves the command's operands short, or leaves bytes over. -/
theorem decode_badPayload {a : Byte} {p : Bytes} {c : Command} {id : ChannelId} (ha : commandAt a = some (c, id))
    (hp : p.length ≠ requestPayloadLen c) : decode .command (a :: p) = .error (.badPayload a) := by
  rcases hops : commandOperands id c p with _ | ⟨i, _ | ⟨b, rest⟩⟩
  · simp [decode, parse, ha, hops]
  · exact absurd (length_of_commandOperands hops) hp
  · simp [decode, parse, ha, hops, leftOver]

/-- R73: a request to an unlisted address cannot be formed. -/
theorem decode_unlistedAddress {a : Byte} (p : Bytes) (ha : a ∉ listedAddresses) :
    decode .command (a :: p) = .error (.unlistedAddress a) := by
  simp [decode, parse, commandAt_eq_none ha]

/-- An encoded request that does not decode is presented and rejected. -/
theorem step_of_decode_error {s : State} {sp : Space} {bs : Bytes} {rest : List Request} {e : DecodeError}
    (hreq : s.requests = .encoded sp bs :: rest) (hdec : decode sp bs = .error e) :
    step s = rejectRequest bs e (s.present rest) := by
  simp only [step, hreq, hdec]

/-- Settles O48: the decoder names both faults, and `rejectRequest` answers the one and refuses the other. -/
theorem commandRequestsAreChecked : Obligations.CommandRequestsAreChecked := by
  refine ⟨fun s c base per n id p rest hrow hreq hlen => ?_, fun s a p rest hreq ha => ?_⟩
  · obtain ⟨rfl, rfl, rfl⟩ := mem_commandTable hrow
    obtain ⟨id', hat⟩ := commandAt_tableAddress c id
    exact step_of_decode_error hreq (decode_badPayload hat hlen)
  · exact step_of_decode_error hreq (decode_unlistedAddress p ha)

end Sys2Proof.Machine

/-! ## Read-modify-write, and a write that is not acknowledged (R53, R186, R221) -/

namespace Sys2Proof.Machine

open Sys2Proof Sys2Proof.Safety

/-- R53, R260: a byte other than ACK ends the exchange with a ProtocolError, and the device is as it was, whatever the draw's drift. -/
theorem xwrite_nacked {s : State} {a b : Byte} {p : Bytes} (h : WriteAnswered s a p [b]) (hb : b ≠ Config.ack) :
    xwrite a p s = (.error (.protocol b), s.transmit (frameOf a p)) := by
  have hdev : deviceAfterWrite (nextDraw s) [b] s.device a p = (s.transmit (frameOf a p)).device := by
    rw [transmit_device, deviceAfterWrite, if_neg hb]
  rw [xwrite_answered s a p _ h, hdev, checkAck, if_neg hb]

/-- R186: after a valid read and a change that succeeds, the changed block is written. -/
theorem readModifyWrite_of_read {s s' : State} {id : ChannelId} {f : RegBlock → Except Error RegBlock} {x x' : RegBlock}
    (hread : readRegs id s = (.ok x, s')) (hf : f x = .ok x') : readModifyWrite id f s = writeRegs id x' s' := by
  rw [readModifyWrite, andThen_ok hread, hf, andThen_pure_ok]

/-- R221: with `r` in range `setOptions` is the read-modify-write of SETOPT. -/
theorem callSetOptions_of_lt (id : ChannelId) {o : Options} (hr : o.r.toNat < 1024) :
    callSetOptions id o = readModifyWrite id fun x => setOptionsOf x o :=
  if_neg (not_le.2 hr)

/-- R213: with `r` in range SETOPT completes. -/
theorem setOptionsOf_of_lt (x : RegBlock) {o : Options} (hr : o.r.toNat < 1024) : ∃ x', setOptionsOf x o = .ok x' :=
  ⟨_, if_neg (not_le.2 hr)⟩

/-- Settles O39: the read changes nothing but the transport, and the write that follows takes the second draw and is refused. -/
theorem nackLeavesTheRegisters : Obligations.NackLeavesTheRegisters := by
  intro s id o d rest hr hlink hacc hans
  obtain ⟨x', hx'⟩ := setOptionsOf_of_lt (s.device.bank id).regs hr
  have hread := readRegs_ideal (id := id) (show nextDraw s = idealDraw by simp [nextDraw, hlink])
  have hdraw : nextDraw (s.transmit [channelAddress 0x80 id]) = d := by simp [nextDraw, hlink]
  have hnack : WriteAnswered (s.transmit [channelAddress 0x80 id]) (addressOf .setRegs id) (packBlock x') [0x15] := by
    rw [WriteAnswered, hdraw]
    exact ⟨by simp [accepted, hacc], by simp [received, hans]⟩
  have hcall := readModifyWrite_of_read (f := fun x => setOptionsOf x o) hread hx'
  rw [← callSetOptions_of_lt id hr, writeRegs, xwrite_nacked hnack (by decide)] at hcall
  exact ⟨_, answer_asValue_error.2 hcall, by simp, by simp, by simp [hlink]⟩

end Sys2Proof.Machine

/-! ## Decode after encode, and the requests written out (R66, R67, R75) -/

namespace Sys2Proof.Machine

open Sys2Proof Sys2Proof.Laws

/-- Settles O44: the round trip of each instruction, constructor by constructor. -/
theorem decodeReadsBackEveryEncoding : Obligations.DecodeReadsBackEveryEncoding := by
  intro i
  cases i
  exacts [RoundTrip.cksum _, RoundTrip.ckverify _ _, RoundTrip.framew _ _, RoundTrip.framer _, RoundTrip.ackchk _,
    RoundTrip.respchk _ _, RoundTrip.mkaddr _ _, RoundTrip.xwrite _ _, RoundTrip.xread _ _, RoundTrip.packu32 _,
    RoundTrip.unpacku32 _, RoundTrip.packu16 _, RoundTrip.unpacku16 _, RoundTrip.packbool _, RoundTrip.labelfit _,
    RoundTrip.packvco _ _, RoundTrip.unpackvco _, RoundTrip.stphase _ _, RoundTrip.strefsel _, RoundTrip.unpackr0 _,
    RoundTrip.unpackr1 _, RoundTrip.unpackr2 _, RoundTrip.unpackr3 _, RoundTrip.unpackr4 _, RoundTrip.unpackr5 _,
    RoundTrip.fget _ _ _, RoundTrip.fset _ _ _ _, RoundTrip.packr0 _, RoundTrip.packr1 _, RoundTrip.packr2 _,
    RoundTrip.packr3 _, RoundTrip.packr4 _, RoundTrip.packr5 _, RoundTrip.unpackblk _, RoundTrip.packblk _,
    RoundTrip.dbfenc _, RoundTrip.dbfdec _, RoundTrip.rflenc _, RoundTrip.rfldec _, RoundTrip.lspenc _,
    RoundTrip.lspdec _, RoundTrip.getfs _, RoundTrip.setfs _ _, RoundTrip.getopt _, RoundTrip.setopt _ _,
    RoundTrip.getrfl _, RoundTrip.setrfl _ _, RoundTrip.gcd _ _, RoundTrip.reduce _ _, RoundTrip.getRegs _,
    RoundTrip.setRegs _ _, RoundTrip.getLabel _, RoundTrip.setLabel _ _, RoundTrip.getVco _, RoundTrip.setVco _ _ _,
    RoundTrip.getRef, RoundTrip.setRef _, RoundTrip.getStatus _, RoundTrip.setRefsel _, RoundTrip.flash]

/-- Settles O46: each of the seven byte strings is the request of its instruction. -/
theorem writtenOutRequestsDecode : Obligations.WrittenOutRequestsDecode :=
  ⟨decodeReadsBackEveryEncoding (.strefsel 0x21) rfl, decodeReadsBackEveryEncoding (.framer 0x8A) rfl,
    decodeReadsBackEveryEncoding (.gcd 250 1000) rfl, decodeReadsBackEveryEncoding (.getRegs .b) rfl,
    decodeReadsBackEveryEncoding (.setVco .b 2300 4400) rfl, decodeReadsBackEveryEncoding (.setRef 10000000) rfl,
    decodeReadsBackEveryEncoding .flash rfl⟩

end Sys2Proof.Machine

/-! ## Op selects that name no operation (R75) -/

namespace Sys2Proof.Machine

open Sys2Proof

/-- R75: the values between the units' rows of the op select table, and the two after its last row. -/
theorem opOperands_eq_none {n : Nat}
    (h : 0x09 ≤ n ∧ n ≤ 0x0F ∨ 0x1A ≤ n ∧ n ≤ 0x1F ∨ n = 0x3E ∨ n = 0x3F) : opOperands n = none := by
  obtain ⟨hlo, hhi⟩ | ⟨hlo, hhi⟩ | rfl | rfl := h
  · interval_cases n <;> rfl
  · interval_cases n <;> rfl
  · rfl
  · rfl

/-- A six-bit op select without a row is named as such before any operand byte is read. -/
theorem decode_unassignedOp {op : Byte} (t : Bytes) (hlt : op.toNat < 64) (hop : opOperands op.toNat = none) :
    decode .op (op :: t) = .error (.unassignedOp op) := by
  simp [decode, parse, Nat.not_le.2 hlt, hop]

/-- Settles O47: the decoder names the op select, and `rejectRequest` answers it. -/
theorem unassignedOpSelectIsInvalidArgument : Obligations.UnassignedOpSelectIsInvalidArgument :=
  fun _ _ t _ hreq hop => step_of_decode_error hreq (decode_unassignedOp t (by omega) (opOperands_eq_none hop))

end Sys2Proof.Machine

/-! ## Encode after decode: each operand is written as it was read (R66, R67, R75) -/

namespace Sys2Proof.Machine

open Sys2Proof

/-- A parser before the bytes `t` has bytes behind it, and `request t` is both together. An instruction it reads from all of `t` is a
well-formed one of the space, and has that request. -/
def Reads (sp : Space) (request : Bytes → Bytes) (p : OperandParser) : Prop :=
  ∀ t i, p t = some (i, []) → i.wf = true ∧ i.space = sp ∧ encode i = request t

section
variable {sp : Space} {request : Bytes → Bytes}

/-- All operands are read: the instruction has to have the bytes behind as its request. -/
theorem Reads.done {i : Instr} (hreq : encode i = request []) (hwf : i.wf = true := by rfl)
    (hsp : i.space = sp := by rfl) : Reads sp request fun t => some (i, t) := by
  intro t j h
  cases h
  exact ⟨hwf, hsp, hreq⟩

/-- One more operand is read, by a reader that takes just the bytes `put` writes and answers only values that are `ok`. -/
theorem Reads.operand {α : Type} {take : Bytes → Option (α × Bytes)} {put : α → Bytes} {ok : α → Prop}
    {f : α → OperandParser} (htake : ∀ t a t', take t = some (a, t') → ok a ∧ t = put a ++ t')
    (hf : ∀ a, ok a → Reads sp (fun t => request (put a ++ t)) (f a)) :
    Reads sp request fun t => takeThen (take t) f := by
  intro t i h
  obtain ⟨a, t', ha, hi⟩ := (takeThen_eq_some _ _ _).1 h
  obtain ⟨hok, rfl⟩ := htake t a t' ha
  exact hf a hok t' i hi

/-- An operand of a kind that has no unwritable value. -/
theorem Reads.anyOperand {α : Type} {take : Bytes → Option (α × Bytes)} {put : α → Bytes} {f : α → OperandParser}
    (htake : ∀ t a t', take t = some (a, t') ↔ t = put a ++ t')
    (hf : ∀ a, Reads sp (fun t => request (put a ++ t)) (f a)) : Reads sp request fun t => takeThen (take t) f :=
  .operand (ok := fun _ => True) (fun t a t' h => ⟨trivial, (htake t a t').1 h⟩) fun a _ => hf a

theorem Reads.u8 {f : Byte → OperandParser} (hf : ∀ b, Reads sp (fun t => request (b :: t)) (f b)) :
    Reads sp request fun t => takeThen (takeU8 t) f :=
  .anyOperand (put := fun b => [b]) takeU8_eq_some hf

theorem Reads.u16 {f : Half → OperandParser} (hf : ∀ v, Reads sp (fun t => request (packU16 v ++ t)) (f v)) :
    Reads sp request fun t => takeThen (takeU16 t) f :=
  .anyOperand takeU16_eq_some hf

theorem Reads.u32 {f : Word → OperandParser} (hf : ∀ v, Reads sp (fun t => request (packU32 v ++ t)) (f v)) :
    Reads sp request fun t => takeThen (takeU32 t) f :=
  .anyOperand takeU32_eq_some hf

theorem Reads.bool {f : Bool → OperandParser} (hf : ∀ v, Reads sp (fun t => request (putBool v ++ t)) (f v)) :
    Reads sp request fun t => takeThen (takeBool t) f :=
  .anyOperand takeBool_eq_some hf

theorem Reads.block {f : RegBlock → OperandParser}
    (hf : ∀ x, Reads sp (fun t => request (putRegBlock x ++ t)) (f x)) :
    Reads sp request fun t => takeThen (takeRegBlock t) f :=
  .anyOperand takeRegBlock_eq_some hf

theorem Reads.nat {f : Nat → OperandParser}
    (hf : ∀ n, wfNat n = true → Reads sp (fun t => request (putNat n ++ t)) (f n)) :
    Reads sp request fun t => takeThen (takeNat t) f :=
  .operand (fun t n t' h => (takeNat_eq_some t n t').1 h) hf

theorem Reads.bytes {f : Bytes → OperandParser}
    (hf : ∀ b, wfBytes b = true → Reads sp (fun t => request (putBytes b ++ t)) (f b)) :
    Reads sp request fun t => takeThen (takeBytes t) f :=
  .operand (fun t b t' h => (takeBytes_eq_some t b t').1 h) hf

/-- A byte string that is the last operand. -/
theorem Reads.lastBytes {c : Bytes → Instr} (hreq : ∀ b, encode (c b) = request (putBytes b))
    (hwf : ∀ b, wfBytes b = true → (c b).wf = true := by exact fun _ h => h)
    (hsp : ∀ b, (c b).space = sp := by exact fun _ => rfl) :
    Reads sp request fun t => takeThen (takeBytes t) fun b t => some (c b, t) :=
  .bytes fun b hb => .done (by rw [List.append_nil, hreq]) (hwf b hb) (hsp b)

/-- A Boolean that is the last operand. -/
theorem Reads.lastBool {c : Bool → Instr} (hreq : ∀ v, encode (c v) = request (putBool v))
    (hwf : ∀ v, (c v).wf = true := by exact fun _ => rfl) (hsp : ∀ v, (c v).space = sp := by exact fun _ => rfl) :
    Reads sp request fun t => takeThen (takeBool t) fun v t => some (c v, t) :=
  .bool fun v => .done (by rw [List.append_nil, hreq]) (hwf v) (hsp v)

end

/-- R75: each row of the op select table reads the operands its encoder writes. -/
theorem opOperands_reads {n : Nat} {p : OperandParser} (h : opOperands n = some p) :
    Reads .op (BitVec.ofNat 8 n :: ·) p := by
  unfold opOperands at h
  split at h <;> cases h
  exacts [
    -- 0x00 to 0x08, checksum framer and exchanges
    .lastBytes fun _ => rfl,
    .bytes fun _ hb => .u8 fun _ => .done rfl hb,
    .u8 fun _ => .lastBytes fun _ => rfl,
    .u8 fun _ => .done rfl,
    .lastBytes fun _ => rfl,
    .bytes fun _ hb => .nat fun _ hn => .done rfl (Bool.and_eq_true_iff.2 ⟨hb, hn⟩),
    .anyOperand takeCommand_eq_some fun _ => .anyOperand takeOptId_eq_some fun _ => .done (by rw [List.append_nil]; rfl),
    .u8 fun _ => .lastBytes fun _ => rfl,
    .u8 fun _ => .nat fun _ hn => .done rfl hn,
    -- 0x10 to 0x19, scalar codecs
    .u32 fun _ => .done rfl,
    .lastBytes fun _ => rfl,
    .u16 fun _ => .done rfl,
    .lastBytes fun _ => rfl,
    .lastBool fun _ => rfl,
    .lastBytes fun _ => rfl,
    .u16 fun _ => .u16 fun _ => .done rfl,
    .lastBytes fun _ => rfl,
    .anyOperand takeId_eq_some fun _ => .u8 fun _ => .done rfl,
    .u8 fun _ => .done rfl,
    -- 0x20 to 0x25, UNPACKR0 to UNPACKR5
    .u32 fun _ => .done rfl, .u32 fun _ => .done rfl, .u32 fun _ => .done rfl,
    .u32 fun _ => .done rfl, .u32 fun _ => .done rfl, .u32 fun _ => .done rfl,
    -- 0x26 and 0x27, FGET and FSET
    .u32 fun _ => .nat fun _ ho => .nat fun _ hn => .done rfl (Bool.and_eq_true_iff.2 ⟨ho, hn⟩),
    .u32 fun _ => .nat fun _ ho => .nat fun _ hn => .u32 fun _ => .done rfl (Bool.and_eq_true_iff.2 ⟨ho, hn⟩),
    -- 0x28 to 0x2D, PACKR0 to PACKR5: a word for each member of the record
    .u32 fun _ => .u32 fun _ => .u32 fun _ => .u32 fun _ => .done rfl,
    .u32 fun _ => .u32 fun _ => .u32 fun _ => .u32 fun _ => .u32 fun _ => .done rfl,
    .u32 fun _ => .u32 fun _ => .u32 fun _ => .u32 fun _ => .u32 fun _ => .u32 fun _ => .u32 fun _ => .u32 fun _ =>
      .u32 fun _ => .u32 fun _ => .u32 fun _ => .u32 fun _ => .u32 fun _ => .u32 fun _ => .u32 fun _ => .done rfl,
    .u32 fun _ => .u32 fun _ => .u32 fun _ => .u32 fun _ => .u32 fun _ => .done rfl,
    .u32 fun _ => .u32 fun _ => .u32 fun _ => .u32 fun _ => .u32 fun _ => .u32 fun _ => .u32 fun _ => .u32 fun _ =>
      .u32 fun _ => .u32 fun _ => .u32 fun _ => .u32 fun _ => .done rfl,
    .u32 fun _ => .u32 fun _ => .u32 fun _ => .done rfl,
    -- 0x2E and 0x2F, the register block
    .lastBytes fun _ => rfl,
    .block fun _ => .done rfl,
    -- 0x30 to 0x35, value codes
    .u32 fun _ => .done rfl, .u32 fun _ => .done rfl, .u32 fun _ => .done rfl, .u32 fun _ => .done rfl,
    .lastBool fun _ => rfl,
    .u32 fun _ => .done rfl,
    -- 0x36 to 0x3B, projections
    .block fun _ => .done rfl,
    .block fun _ => .u32 fun _ => .u32 fun _ => .u32 fun _ => .u32 fun _ => .done rfl,
    .block fun _ => .done rfl,
    .block fun _ => .bool fun _ => .bool fun _ => .u32 fun _ => .lastBool fun _ => rfl,
    .block fun _ => .done rfl,
    .block fun _ => .u32 fun _ => .done rfl,
    -- 0x3C and 0x3D, GCD and REDUCE
    .u32 fun _ => .u32 fun _ => .done rfl,
    .u32 fun _ => .u32 fun _ => .done rfl]

/-- R66: an address byte of the table is the address of the command and the channel it is listed for. -/
theorem addressOf_of_commandAt {a : Byte} {c : Command} {id : ChannelId} (h : commandAt a = some (c, id)) :
    addressOf c id = a := by
  unfold commandAt at h
  split at h <;> cases h <;> exact BitVec.eq_of_toNat_eq (Eq.symm ‹_›)

/-- R67: each command's payload is read as its encoder writes it. -/
theorem commandOperands_reads (c : Command) (id : ChannelId) :
    Reads .command (addressOf c id :: ·) (commandOperands id c) := by
  cases c with
  | getRegs | getLabel | getVco | getRef | getStatus | flash => exact .done rfl
  | setRegs => exact .block fun _ => .done rfl
  | setLabel =>
    exact .operand (fun t l t' h => (takeExact_eq_some 16 t l t').1 h) fun _ hl =>
      .done (by rw [List.append_nil]; rfl) (beq_iff_eq.2 hl)
  | setVco => exact .u16 fun _ => .u16 fun _ => .done rfl
  | setRef => exact .u32 fun _ => .done rfl
  | setRefsel => exact .lastBool fun _ => rfl

/-- A decoded request was read to its end. -/
theorem parse_of_decode {sp : Space} {bs : Bytes} {i : Instr} (h : decode sp bs = .ok i) : parse sp bs = .ok (i, []) := by
  unfold decode at h
  split at h
  case h_2 hp => cases h; exact hp
  all_goals cases h

/-- What a block operation's request that decodes is made of: an op select of the table and all of its operands. -/
theorem operands_of_decode_op {op : Byte} {t : Bytes} {i : Instr} (h : decode .op (op :: t) = .ok i) :
    ∃ p, opOperands op.toNat = some p ∧ p t = some (i, []) := by
  have hp := parse_of_decode h
  simp only [parse] at hp
  split_ifs at hp
  split at hp
  case h_1 => cases hp
  case h_2 p hop =>
    split at hp <;> cases hp
    exact ⟨p, hop, ‹_›⟩

/-- What a wire command's request that decodes is made of: an address of the table and the command's whole payload. -/
theorem operands_of_decode_command {a : Byte} {t : Bytes} {i : Instr} (h : decode .command (a :: t) = .ok i) :
    ∃ c id, commandAt a = some (c, id) ∧ commandOperands id c t = some (i, []) := by
  have hp := parse_of_decode h
  simp only [parse] at hp
  split at hp
  case h_1 => cases hp
  case h_2 c id ha =>
    split at hp <;> cases hp
    exact ⟨c, id, ha, ‹_›⟩

/-- Settles O45: the first byte chooses the operands' parser, which reads what the encoder writes. -/
theorem encodeGivesBackTheBytes : Obligations.EncodeGivesBackTheBytes := by
  intro sp bs i h
  match sp, bs with
  | _, [] => cases parse_of_decode h
  | .op, op :: t =>
    obtain ⟨p, hop, hp⟩ := operands_of_decode_op h
    simpa using opOperands_reads hop t i hp
  | .command, a :: t =>
    obtain ⟨c, id, ha, hp⟩ := operands_of_decode_command h
    simpa [addressOf_of_commandAt ha] using commandOperands_reads c id t i hp

end Sys2Proof.Machine

/-! ## What an action gives to TxWrite (R60, R62, R66, R73, R92) -/

namespace Sys2Proof.Machine

open Sys2Proof Sys2Proof.Safety

/-- Between `s` and `t` only byte strings with `P` were given to TxWrite, and what was sent stays sent. -/
def SentOnly (P : Bytes → Prop) (s t : State) : Prop := ∃ frames, t.sent = s.sent ++ frames ∧ ∀ f ∈ frames, P f

/-- An action that gives TxWrite only byte strings with `P`, however it ends. -/
def Sends (P : Bytes → Prop) {α : Type} (m : Action α) : Prop := ∀ s, SentOnly P s (m s).2

/-- A request byte or a write frame with one of the eighteen addresses of R66. -/
def IsListedFrame (f : Bytes) : Prop := ∃ a ∈ listedAddresses, f = [a] ∨ ∃ p, f = frameOf a p

section
variable {P Q : Bytes → Prop} {s t u : State} {α β : Type} {m : Action α}

theorem SentOnly.of_sent_eq (h : t.sent = s.sent) : SentOnly P s t := ⟨[], by simp [h], by simp⟩

theorem SentOnly.of_sent_append {f : Bytes} (h : t.sent = s.sent ++ [f]) (hf : P f) : SentOnly P s t :=
  ⟨[f], h, by simpa using hf⟩

theorem SentOnly.trans (h : SentOnly P s t) (h' : SentOnly P t u) : SentOnly P s u := by
  obtain ⟨frames, hs, hP⟩ := h
  obtain ⟨more, hs', hP'⟩ := h'
  exact ⟨frames ++ more, by rw [hs', hs, List.append_assoc], fun f hf => (List.mem_append.1 hf).elim (hP f) (hP' f)⟩

theorem SentOnly.mono (h : SentOnly P s t) (hPQ : ∀ f, P f → Q f) : SentOnly Q s t := by
  obtain ⟨frames, hs, hP⟩ := h
  exact ⟨frames, hs, fun f hf => hPQ f (hP f hf)⟩

theorem Sends.mono (hm : Sends P m) (hPQ : ∀ f, P f → Q f) : Sends Q m := fun s => (hm s).mono hPQ

theorem pureStep_sends (r : Except Error α) : Sends P (pureStep r) := fun _ => .of_sent_eq rfl

theorem Sends.bind {f : α → Action β} (hm : Sends P m) (hf : ∀ a, Sends P (f a)) : Sends P (andThen m f) := by
  intro s
  rcases andThen_cases m f s with ⟨a, -, h⟩ | ⟨e, -, h⟩
  · rw [h]
    exact (hm s).trans (hf a _)
  · rw [h]
    exact hm s

/-- The shape of most reads: decoding what an action answered sends nothing more. -/
theorem Sends.decode {f : α → Except Error β} (hm : Sends P m) : Sends P (andThen m fun a => pureStep (f a)) :=
  hm.bind fun _ => pureStep_sends _

theorem Sends.asValue {f : α → Value} (hm : Sends P m) : Sends P (asValue f m) := hm.decode

theorem xwrite_sends (a : Byte) (p : Bytes) (h : P (frameOf a p)) : Sends P (xwrite a p) := by
  intro s
  obtain ⟨dev, hs⟩ := xwrite_state s a p
  rw [hs]
  exact .of_sent_append (transmit_sent s _) h

theorem xread_sends (a : Byte) (n : Nat) (h : P [a]) : Sends P (xread a n) := by
  intro s
  obtain ⟨dev, hs⟩ := xread_state s a n
  rw [hs]
  exact .of_sent_append (transmit_sent s _) h

/-- A response is no byte string sent. -/
theorem Sends.sentOnly_of_answer {m : Action Value} (hm : Sends P m) (h : answer (m s) = .next t) : SentOnly P s t := by
  rw [answer_eq_next] at h
  cases h
  exact hm s

end

/-! ### The wire commands and the controller functions: listed addresses (R66, R73) -/

theorem addressOf_listed (c : Command) (id : ChannelId) : addressOf c id ∈ listedAddresses := by
  cases c <;> cases id <;> decide

theorem xread_sends_listed (c : Command) (id : ChannelId) (n : Nat) : Sends IsListedFrame (xread (addressOf c id) n) :=
  xread_sends _ n ⟨_, addressOf_listed c id, .inl rfl⟩

theorem xwrite_sends_listed (c : Command) (id : ChannelId) (p : Bytes) : Sends IsListedFrame (xwrite (addressOf c id) p) :=
  xwrite_sends _ p ⟨_, addressOf_listed c id, .inr ⟨p, rfl⟩⟩

theorem readRegs_sends (id : ChannelId) : Sends IsListedFrame (readRegs id) := (xread_sends_listed .getRegs id 24).decode

theorem readVco_sends (id : ChannelId) : Sends IsListedFrame (readVco id) := (xread_sends_listed .getVco id 4).decode

theorem readRef_sends : Sends IsListedFrame readRef := (xread_sends_listed .getRef .a 4).decode

theorem readStatus_sends (id : ChannelId) : Sends IsListedFrame (readStatus id) :=
  (xread_sends_listed .getStatus id 1).decode

theorem writeLabel_sends (id : ChannelId) (l : Bytes) : Sends IsListedFrame (writeLabel id l) := by
  unfold writeLabel
  split
  · exact pureStep_sends _
  · exact xwrite_sends_listed .setLabel id l

theorem readModifyWrite_sends (id : ChannelId) (f : RegBlock → Except Error RegBlock) :
    Sends IsListedFrame (readModifyWrite id f) :=
  (readRegs_sends id).bind fun _ => (pureStep_sends _).bind fun _ => xwrite_sends_listed .setRegs id _

theorem callEpdf_sends (id : ChannelId) : Sends IsListedFrame (callEpdf id) :=
  readRef_sends.bind fun _ => (readRegs_sends id).bind fun _ => (pureStep_sends _).decode

theorem callSetFrequency_sends (id : ChannelId) (freq : Rat) (spacing : Option Rat) :
    Sends IsListedFrame (callSetFrequency id freq spacing) := by
  unfold callSetFrequency
  dsimp only
  split
  · exact pureStep_sends _
  · exact (readVco_sends id).bind fun _ => (callEpdf_sends id).bind fun _ s =>
      (pureStep_sends _).bind (fun _ => readModifyWrite_sends id _) s

theorem callSetOptions_sends (id : ChannelId) (o : Options) : Sends IsListedFrame (callSetOptions id o) := by
  unfold callSetOptions
  split
  · exact pureStep_sends _
  · exact readModifyWrite_sends id _

/-- R77, R216 to R229, R231, R232: a controller function is made of wire commands. -/
theorem runCall_sends (c : Call) : Sends IsListedFrame (runCall c) := by
  cases c with
  | getFrequency id =>
    exact .asValue ((readRegs_sends id).bind fun _ => (pureStep_sends _).bind fun _ => (callEpdf_sends id).decode)
  | setFrequency id freq spacing => exact .asValue (callSetFrequency_sends id freq spacing)
  | getReference => exact .asValue readRef_sends
  | setReference hz => exact .asValue (xwrite_sends_listed .setRef .a _)
  | getRfLevel id | getOptions id => exact .asValue (readRegs_sends id).decode
  | setRfLevel id level => exact .asValue ((pureStep_sends _).bind fun _ => readModifyWrite_sends id _)
  | setOptions id o => exact .asValue (callSetOptions_sends id o)
  | getRefSelect => exact .asValue (readStatus_sends .a).decode
  | setRefSelect v => exact .asValue (xwrite_sends_listed .setRefsel .a _)
  | getVcoRange id => exact .asValue (readVco_sends id)
  | setVcoRange id v => exact .asValue (xwrite_sends_listed .setVco id _)
  | getPhaseLock id => exact .asValue (readStatus_sends id).decode
  | getLabel id => exact .asValue (xread_sends_listed .getLabel id 16)
  | setLabel id label => exact .asValue (writeLabel_sends id _)
  | flash => exact .asValue (xwrite_sends_listed .flash .a [])

/-- R174 to R184: the action of each wire command. -/
theorem exec_wireCommand_sends (i : Instr) (hi : i.space = .command) :
    ∃ m : Action Value, Sends IsListedFrame m ∧ ∀ s, exec i s = answer (m s) := by
  cases i with
  | getRegs id => exact ⟨_, .asValue (readRegs_sends id), fun _ => rfl⟩
  | setRegs id x => exact ⟨_, .asValue (xwrite_sends_listed .setRegs id _), fun _ => rfl⟩
  | getLabel id => exact ⟨_, .asValue (xread_sends_listed .getLabel id 16), fun _ => rfl⟩
  | setLabel id l => exact ⟨_, .asValue (writeLabel_sends id l), fun _ => rfl⟩
  | getVco id => exact ⟨_, .asValue (readVco_sends id), fun _ => rfl⟩
  | setVco id low high => exact ⟨_, .asValue (xwrite_sends_listed .setVco id _), fun _ => rfl⟩
  | getRef => exact ⟨_, .asValue readRef_sends, fun _ => rfl⟩
  | setRef hz => exact ⟨_, .asValue (xwrite_sends_listed .setRef .a _), fun _ => rfl⟩
  | getStatus id => exact ⟨_, .asValue (readStatus_sends id), fun _ => rfl⟩
  | setRefsel v => exact ⟨_, .asValue (xwrite_sends_listed .setRefsel .a _), fun _ => rfl⟩
  | flash => exact ⟨_, .asValue (xwrite_sends_listed .flash .a []), fun _ => rfl⟩
  | _ => nomatch hi

/-- A listed frame begins with its address. -/
theorem IsListedFrame.address {f : Bytes} (h : IsListedFrame f) : ∃ a p, f = a :: p ∧ a ∈ listedAddresses := by
  obtain ⟨a, ha, rfl | ⟨p, rfl⟩⟩ := h
  · exact ⟨a, [], rfl, ha⟩
  · exact ⟨a, _, rfl, ha⟩

/-- Settles O56: both kinds of request run an action that sends listed frames only. -/
theorem onlyListedAddressesAreSent : Obligations.OnlyListedAddressesAreSent := by
  refine ⟨fun i s t hi ht => ?_, fun c s t ht => ?_⟩
  · obtain ⟨m, hm, hexec⟩ := exec_wireCommand_sends i hi
    exact (hm.sentOnly_of_answer (hexec s ▸ ht)).mono fun _ => IsListedFrame.address
  · rw [step_call] at ht
    exact ((runCall_sends c).sentOnly_of_answer ht).mono fun _ => IsListedFrame.address

/-! ### Every request: one request byte or a write frame with its checksum (R60, R62, R92) -/

theorem IsListedFrame.isFrame {f : Bytes} (h : IsListedFrame f) : IsFrame f := by
  obtain ⟨a, -, rfl | ⟨p, rfl⟩⟩ := h
  · exact .inl rfl
  · exact .inr ⟨a, p, rfl⟩

/-- R171, R172: XWRITE and XREAD send frames too, whatever the address; the other block operations send nothing. -/
theorem exec_sends (i : Instr) : ∃ m : Action Value, Sends IsFrame m ∧ ∀ s, exec i s = answer (m s) := by
  by_cases hi : i.space = .command
  case pos =>
    obtain ⟨m, hm, hexec⟩ := exec_wireCommand_sends i hi
    exact ⟨m, hm.mono fun _ => IsListedFrame.isFrame, hexec⟩
  case neg =>
    cases i with
    | xwrite a p => exact ⟨_, .asValue (xwrite_sends a p (.inr ⟨a, p, rfl⟩)), fun _ => rfl⟩
    | xread a n => exact ⟨_, .asValue (xread_sends a n (.inl rfl)), fun _ => rfl⟩
    | getRegs | setRegs | getLabel | setLabel | getVco | setVco | getRef | setRef | getStatus | setRefsel | flash =>
      exact absurd rfl hi
    | _ => exact ⟨_, pureStep_sends _, fun _ => rfl⟩

/-- A request that is rejected sends nothing. -/
theorem rejectRequest_sent {bs : Bytes} {e : DecodeError} {s t : State} (h : rejectRequest bs e s = .next t) :
    t.sent = s.sent := by
  cases e with
  | unassignedOp | badPayload => cases h; rfl
  | unlistedAddress | malformedOperands | empty => nomatch h

/-- What a step can send: what the request it presents sends. -/
theorem step_sentOnly_frames {s t : State} (h : step s = .next t) : SentOnly IsFrame s t := by
  rcases hreq : s.requests with _ | ⟨⟨sp, bs⟩ | c, rest⟩
  · simp only [step, hreq] at h
    cases h
    exact .of_sent_eq rfl
  · cases hdec : decode sp bs with
    | error e =>
      rw [step_of_decode_error hreq hdec] at h
      have hsent := rejectRequest_sent h
      exact .of_sent_eq hsent
    | ok i =>
      rw [step_of_decode_ok hreq hdec] at h
      obtain ⟨m, hm, hexec⟩ := exec_sends i
      exact hm.sentOnly_of_answer (s := s.present rest) (hexec _ ▸ h)
  · simp only [step, hreq] at h
    exact ((runCall_sends c).sentOnly_of_answer (s := s.present rest) h).mono fun _ => IsListedFrame.isFrame

/-- Settles O57: a step adds frames to frames. -/
theorem stepKeepsFramesSent : Obligations.StepKeepsFramesSent := by
  intro s t hinv hstep f hf
  obtain ⟨frames, hsent, hframes⟩ := step_sentOnly_frames hstep
  rw [hsent, List.mem_append] at hf
  exact hf.elim (hinv f) (hframes f)

end Sys2Proof.Machine

/-! ## The checksum framer: each operation's answer, and the responses by their length (R90 to R96) -/

namespace Sys2Proof.Machine

open Sys2Proof Sys2Proof.Safety

/-! ### What each operation answers -/

theorem exec_cksum (b : Bytes) (s : State) : exec (.cksum b) s = .next (s.respond (.ok (.byte (checksum b)))) := rfl

theorem exec_ckverify (b : Bytes) (e : Byte) (s : State) :
    exec (.ckverify b e) s = .next (s.respond (.ok (.bool (verifyChecksum b e)))) := rfl

theorem exec_framew (a : Byte) (p : Bytes) (s : State) :
    exec (.framew a p) s = .next (s.respond (.ok (.bytes (writeFrame a p)))) := rfl

theorem exec_framer (a : Byte) (s : State) : exec (.framer a) s = .next (s.respond (.ok (.bytes (readFrame a)))) := rfl

theorem exec_ackchk (rx : Bytes) (s : State) :
    exec (.ackchk rx) s = .next (s.respond (responseOf ((checkAck rx).map fun _ => .none))) := rfl

theorem exec_respchk (rx : Bytes) (n : Nat) (s : State) :
    exec (.respchk rx n) s = .next (s.respond (responseOf ((checkResponse rx n).map .bytes))) := rfl

/-- Settles O1: the byte is the sum modulo 256 that `byteSum` states, and `verifyChecksum` compares it. -/
theorem checksumIsByteSumModulo256 : Obligations.ChecksumIsByteSumModulo256 := by
  refine ⟨fun b s => ⟨checksum b, exec_cksum b s, ?_⟩, fun b e s => ?_⟩
  · rw [checksum_eq, sumByte_toNat]
  · rw [exec_ckverify, verifyChecksum_eq]

/-- Settles O3: `writeFrame` and `readFrame` build the frames of R93 and R94. -/
theorem framesAreBuiltAsTheirFormats : Obligations.FramesAreBuiltAsTheirFormats :=
  ⟨fun a p s => by rw [exec_framew, writeFrame_eq], exec_framer⟩

/-! ### Acknowledgements (R95) -/

theorem ack_iff_toNat {b : Byte} : b = Config.ack ↔ b.toNat = 6 := BitVec.toNat_inj.symm

theorem checkAck_of_long {rx : Bytes} (h : 1 < rx.length) : checkAck rx = badArgument .rxTooLong := by
  match rx, h with
  | _ :: _ :: _, _ => rfl

/-- Settles O4: the three lengths of `checkAck`, and at length one whether the byte is ACK. -/
theorem ackchkAcceptsOnlyAck : Obligations.AckchkAcceptsOnlyAck := by
  refine fun s => ⟨rfl, fun b => ?_, fun rx h => ?_⟩
  · rw [exec_ackchk, checkAck]
    by_cases hb : b = Config.ack
    · rw [if_pos hb, if_pos (ack_iff_toNat.1 hb)]; rfl
    · rw [if_neg hb, if_neg (mt ack_iff_toNat.2 hb)]; rfl
  · rw [exec_ackchk, checkAck_of_long h]; rfl

/-! ### Read responses (R96): the length is tested before the checksum -/

theorem checkResponse_of_short {rx : Bytes} {n : Nat} (h : rx.length < n + 1) :
    checkResponse rx n = .error (.transport .rxRead (n + 1) rx.length) := if_pos h

theorem checkResponse_of_long {rx : Bytes} {n : Nat} (h : n + 1 < rx.length) :
    checkResponse rx n = badArgument .rxTooLong := by
  rw [checkResponse, if_neg h.le.not_gt, if_pos h]

/-- A response of the requested length is its payload and the checksum byte received after it. -/
theorem checkResponse_append (p : Bytes) (c : Byte) : checkResponse (p ++ [c]) p.length =
    if verifyChecksum p c then .ok p else .error (.checksum (checksum p) c) := by
  simp [checkResponse]

/-- Settles O5: too short, too long, and of the requested length with a right or a wrong checksum. -/
theorem respchkSplitsAndVerifies : Obligations.RespchkSplitsAndVerifies := by
  refine fun rx n s => ⟨fun h => ?_, fun h => ?_, fun p c hrx hp => ?_⟩
  · rw [exec_respchk, checkResponse_of_short h]; rfl
  · rw [exec_respchk, checkResponse_of_long h]; rfl
  · subst hrx hp
    simp only [exec_respchk, checkResponse_append, verifyChecksum_eq, checksum_eq, decide_eq_true_eq]
    split <;> rfl

end Sys2Proof.Machine

/-! ## What the additive checksum detects, and what it does not (R97)

In the ring of bytes the checksum is the plain sum, so replacing one byte moves it by the difference of the two bytes: by nothing only
where they are equal, and two replacements of opposite differences leave it where it was. -/

namespace Sys2Proof.Machine

open Sys2Proof

theorem checksum_eq_sum (b : Bytes) : checksum b = b.sum := List.sum_eq_foldl.symm

theorem checksum_set {b : Bytes} {i : Nat} (h : i < b.length) (c : Byte) :
    checksum (b.set i c) = checksum b + (c - b.getD i 0) := by
  rw [checksum_eq_sum, checksum_eq_sum, List.sum_set', dif_pos h, List.getD_eq_getElem _ _ h, neg_add_eq_sub]

theorem verifyChecksum_iff {b : Bytes} {e : Byte} : verifyChecksum b e = true ↔ checksum b = e := beq_iff_eq

theorem ckverify_answers_iff {b : Bytes} {e : Byte} {s : State} {v : Bool} :
    exec (.ckverify b e) s = .next (s.respond (.ok (.bool v))) ↔ verifyChecksum b e = v := by
  simp [exec_ckverify, respond_inj]

/-! ### One byte changed -/

/-- Any other byte in the place of one byte of a verified string is detected. -/
theorem verifyChecksum_set_of_ne {b : Bytes} {e c : Byte} {i : Nat} (hv : verifyChecksum b e = true) (hi : i < b.length)
    (hc : c ≠ b.getD i 0) : verifyChecksum (b.set i c) e = false := by
  rw [← Bool.not_eq_true, verifyChecksum_iff, checksum_set hi, verifyChecksum_iff.1 hv, add_eq_left, sub_eq_zero]
  exact hc

/-- Any other byte in the place of the checksum of a verified string is detected. -/
theorem verifyChecksum_of_ne {b : Bytes} {e e' : Byte} (hv : verifyChecksum b e = true) (he : e' ≠ e) :
    verifyChecksum b e' = false := by
  rw [← Bool.not_eq_true, verifyChecksum_iff, verifyChecksum_iff.1 hv]
  exact he.symm

/-! ### One bit flipped -/

theorem xor_twoPow_ne {k : Nat} (hk : k < 8) (x : Byte) : x ^^^ BitVec.twoPow 8 k ≠ x := by
  intro h
  have hbit := congrArg (BitVec.getLsbD · k) h
  simp [hk] at hbit

/-- Flipping a clear bit adds its value: nothing is carried. -/
theorem xor_twoPow_of_clear {k : Nat} {x : Byte} (hx : x.getLsbD k = false) :
    x ^^^ BitVec.twoPow 8 k = x + BitVec.twoPow 8 k := by
  have hdisj : x &&& BitVec.twoPow 8 k = 0#8 := by simp [BitVec.and_twoPow, hx]
  rw [BitVec.add_eq_or_of_and_eq_zero _ _ hdisj]
  refine BitVec.eq_of_getLsbD_eq fun n _ => ?_
  obtain rfl | hkn := eq_or_ne k n
  · simp [hx]
  · simp [BitVec.getLsbD_twoPow, hkn]

/-- Flipping a set bit takes its value away, since flipping it again adds it. -/
theorem xor_twoPow_of_set {k : Nat} {x : Byte} (hk : k < 8) (hx : x.getLsbD k = true) :
    x ^^^ BitVec.twoPow 8 k = x - BitVec.twoPow 8 k := by
  have hclear : (x ^^^ BitVec.twoPow 8 k).getLsbD k = false := by simp [hk, hx]
  have hback := xor_twoPow_of_clear hclear
  rw [BitVec.xor_assoc, BitVec.xor_self, BitVec.xor_zero] at hback
  exact eq_sub_of_add_eq hback.symm

/-- The same bit flipped up in one byte and down in another: what the first adds the second takes away. -/
theorem checksum_set_set_xor_twoPow {b : Bytes} {i j k : Nat} (hk : k < 8) (hi : i < b.length) (hj : j < b.length)
    (hxi : (b.getD i 0).getLsbD k = false) (hxj : (b.getD j 0).getLsbD k = true) :
    checksum ((b.set i (b.getD i 0 ^^^ BitVec.twoPow 8 k)).set j (b.getD j 0 ^^^ BitVec.twoPow 8 k)) = checksum b := by
  have hij : i ≠ j := by
    rintro rfl
    exact absurd (hxi.symm.trans hxj) Bool.false_ne_true
  have hget : (b.set i (b.getD i 0 ^^^ BitVec.twoPow 8 k)).getD j 0 = b.getD j 0 := by simp [hij]
  rw [checksum_set (by simpa using hj), checksum_set hi, hget, xor_twoPow_of_clear hxi, xor_twoPow_of_set hk hxj]
  abel

/-- Settles O2: a flipped bit changes its byte, and two opposite flips of one bit cancel in the sum. -/
theorem singleBitFlipIsDetected : Obligations.SingleBitFlipIsDetected := by
  refine ⟨fun b e s h k hk => ⟨fun i hi => ?_, ?_⟩, fun b e s h k hk i hi j hj hxi hxj => ?_⟩
  all_goals rw [ckverify_answers_iff] at h ⊢
  · exact verifyChecksum_set_of_ne h hi (xor_twoPow_ne hk _)
  · exact verifyChecksum_of_ne h (xor_twoPow_ne hk _)
  · rwa [verifyChecksum_iff, checksum_set_set_xor_twoPow hk hi hj hxi hxj, ← verifyChecksum_iff]

end Sys2Proof.Machine

/-! ## The scalar codecs (R110 to R119) -/

namespace Sys2Proof.Machine

open Sys2Proof Sys2Proof.Safety

/-! ### What each operation answers -/

theorem exec_packu32 (v : Word) (s : State) : exec (.packu32 v) s = .next (s.respond (.ok (.bytes (packU32 v)))) := rfl

theorem exec_unpacku32 (b : Bytes) (s : State) :
    exec (.unpacku32 b) s = .next (s.respond (responseOf ((unpackU32 b).map .word))) := rfl

theorem exec_packu16 (v : Half) (s : State) : exec (.packu16 v) s = .next (s.respond (.ok (.bytes (packU16 v)))) := rfl

theorem exec_unpacku16 (b : Bytes) (s : State) :
    exec (.unpacku16 b) s = .next (s.respond (responseOf ((unpackU16 b).map .half))) := rfl

theorem exec_packbool (v : Bool) (s : State) : exec (.packbool v) s = .next (s.respond (.ok (.bytes (packBool v)))) := rfl

theorem exec_labelfit (l : Bytes) (s : State) : exec (.labelfit l) s = .next (s.respond (.ok (.bytes (fitLabel l)))) := rfl

theorem exec_packvco (low high : Half) (s : State) :
    exec (.packvco low high) s = .next (s.respond (.ok (.bytes (packVco ⟨low, high⟩)))) := rfl

theorem exec_unpackvco (b : Bytes) (s : State) :
    exec (.unpackvco b) s = .next (s.respond (responseOf ((unpackVco b).map .vco))) := rfl

theorem exec_stphase (id : ChannelId) (status : Byte) (s : State) :
    exec (.stphase id status) s = .next (s.respond (.ok (.bool (phaseLocked id status)))) := rfl

theorem exec_strefsel (status : Byte) (s : State) :
    exec (.strefsel status) s = .next (s.respond (.ok (.bool (externalReference status)))) := rfl

/-! ### Unpacking: the big-endian value of exactly the right number of bytes (R111, R113, R117) -/

theorem joinU32_eq (b0 b1 b2 b3 : Byte) : joinU32 b0 b1 b2 b3 = BitVec.ofNat 32 (bigEndianValue [b0, b1, b2, b3]) := by
  have h : b0.toNat * 2 ^ 24 + b1.toNat * 2 ^ 16 + b2.toNat * 2 ^ 8 + b3.toNat = bigEndianValue [b0, b1, b2, b3] := by
    simp only [bigEndianValue, List.foldl_cons, List.foldl_nil]
    omega
  rw [joinU32, h]

theorem joinU16_eq (b0 b1 : Byte) : joinU16 b0 b1 = BitVec.ofNat 16 (bigEndianValue [b0, b1]) := by
  simp [joinU16, bigEndianValue]

theorem unpackU32_of_length {b : Bytes} (h : b.length = 4) : unpackU32 b = .ok (BitVec.ofNat 32 (bigEndianValue b)) := by
  obtain ⟨b0, b1, b2, b3, rfl⟩ := List.length_eq_four.1 h
  rw [unpackU32, joinU32_eq]

theorem unpackU32_of_length_ne {b : Bytes} (h : b.length ≠ 4) : unpackU32 b = badArgument .length := by
  unfold unpackU32
  split
  · exact absurd rfl h
  · rfl

theorem unpackU16_of_length {b : Bytes} (h : b.length = 2) : unpackU16 b = .ok (BitVec.ofNat 16 (bigEndianValue b)) := by
  obtain ⟨b0, b1, rfl⟩ := List.length_eq_two.1 h
  rw [unpackU16, joinU16_eq]

theorem unpackU16_of_length_ne {b : Bytes} (h : b.length ≠ 2) : unpackU16 b = badArgument .length := by
  unfold unpackU16
  split
  · exact absurd rfl h
  · rfl

theorem unpackVco_of_length {b : Bytes} (h : b.length = 4) : unpackVco b =
    .ok ⟨BitVec.ofNat 16 (bigEndianValue (b.take 2)), BitVec.ofNat 16 (bigEndianValue (b.drop 2))⟩ := by
  obtain ⟨b0, b1, b2, b3, rfl⟩ := List.length_eq_four.1 h
  rw [unpackVco, joinU16_eq, joinU16_eq]
  rfl

theorem unpackVco_of_length_ne {b : Bytes} (h : b.length ≠ 4) : unpackVco b = badArgument .length := by
  unfold unpackVco
  split
  · exact absurd rfl h
  · rfl

/-- Settles O6: `packU32_eq` and `packU16_eq` for the packs; the unpacks by whether the length is the right one. -/
theorem integerCodecsAreBigEndian : Obligations.IntegerCodecsAreBigEndian := by
  refine ⟨fun v s => ?_, fun v s => ?_, fun b s => ?_, fun b s => ?_⟩
  · rw [exec_packu32, packU32_eq]
  · rw [exec_packu16, packU16_eq]
  · rw [exec_unpacku32]
    split
    next h => rw [unpackU32_of_length h]; rfl
    next h => rw [unpackU32_of_length_ne h]; rfl
  · rw [exec_unpacku16]
    split
    next h => rw [unpackU16_of_length h]; rfl
    next h => rw [unpackU16_of_length_ne h]; rfl

/-! ### Packing and unpacking are inverse -/

@[simp] theorem unpackU16_packU16 (v : Half) : unpackU16 (packU16 v) = .ok v := by
  rw [packU16, unpackU16, joinU16_packU16]

theorem packU32_of_unpackU32 {b : Bytes} {v : Word} (h : unpackU32 b = .ok v) : packU32 v = b := by
  unfold unpackU32 at h
  split at h
  · cases h
    exact packU32_joinU32 _ _ _ _
  · nomatch h

theorem packU16_of_unpackU16 {b : Bytes} {v : Half} (h : unpackU16 b = .ok v) : packU16 v = b := by
  unfold unpackU16 at h
  split at h
  · cases h
    exact packU16_joinU16 _ _
  · nomatch h

/-- Settles O7: what a pack gives is unpacked to its operand, and what an unpack accepts is packed to the same bytes. -/
theorem integerCodecsAreInverse : Obligations.IntegerCodecsAreInverse := by
  refine ⟨fun v s => ⟨_, exec_packu32 v s, ?_⟩, fun b s h => ?_, fun v s => ⟨_, exec_packu16 v s, ?_⟩, fun b s h => ?_⟩
  · rw [exec_unpacku32, unpackU32_packU32]; rfl
  · have hv := unpackU32_of_length h
    refine ⟨BitVec.ofNat 32 (bigEndianValue b), ?_, ?_⟩
    · rw [exec_unpacku32, hv]; rfl
    · rw [exec_packu32, packU32_of_unpackU32 hv]
  · rw [exec_unpacku16, unpackU16_packU16]; rfl
  · have hv := unpackU16_of_length h
    refine ⟨BitVec.ofNat 16 (bigEndianValue b), ?_, ?_⟩
    · rw [exec_unpacku16, hv]; rfl
    · rw [exec_packu16, packU16_of_unpackU16 hv]

/-! ### Labels (R115): cut to 16 bytes, or followed by zeros -/

theorem fitLabel_of_long {l : Bytes} (h : 16 ≤ l.length) : fitLabel l = l.take 16 := if_pos h

theorem fitLabel_of_short {l : Bytes} (h : l.length < 16) : fitLabel l = l ++ List.replicate (16 - l.length) 0 :=
  if_neg h.not_ge

@[simp] theorem fitLabel_length (l : Bytes) : (fitLabel l).length = 16 := by
  obtain h | h := Nat.lt_or_ge l.length 16
  · simp [fitLabel_of_short h, h.le]
  · simp [fitLabel_of_long h, h]

theorem fitLabel_getD {l : Bytes} {i : Nat} (hi : i < 16) : (fitLabel l).getD i 0 = l.getD i 0 := by
  obtain h | h := Nat.lt_or_ge l.length 16
  · rw [fitLabel_of_short h]
    obtain hil | hil := Nat.lt_or_ge i l.length
    · exact List.getD_append _ _ _ _ hil
    · rw [List.getD_append_right _ _ _ _ hil, List.getD_eq_default l _ hil]
      exact List.getD_replicate 0 (by omega)
  · simp [fitLabel_of_long h, List.getD_eq_getElem?_getD, hi]

/-- Settles O8: the length of `fitLabel` and each of its bytes. -/
theorem labelfitGivesSixteenBytes : Obligations.LabelfitGivesSixteenBytes :=
  fun l s => ⟨fitLabel l, exec_labelfit l s, fitLabel_length l, fun _ hi => fitLabel_getD hi⟩

/-! ### Booleans and VCO ranges (R114, R116, R117) -/

theorem packBool_eq (v : Bool) : packBool v = [BitVec.ofNat 8 v.toNat] := by cases v <;> rfl

/-- Settles O9: `packVco_eq` for any order of `low` and `high`, and UNPACKVCO by whether there are four bytes. -/
theorem smallPayloadCodecs : Obligations.SmallPayloadCodecs := by
  refine ⟨fun v s => ?_, fun lo hi s => ?_, fun b s => ?_⟩
  · rw [exec_packbool, packBool_eq]
  · rw [exec_packvco, packVco_eq, vcoBytes]
  · rw [exec_unpackvco]
    split
    next h => rw [unpackVco_of_length h]; rfl
    next h => rw [unpackVco_of_length_ne h]; rfl

/-! ### The bits of the status byte (R118, R119) -/

theorem getLsbD_eq_decide {w : Nat} (x : BitVec w) (k : Nat) : x.getLsbD k = decide (x.toNat / 2 ^ k % 2 = 1) := by
  rw [← BitVec.testBit_toNat, Nat.testBit_eq_decide_div_mod_eq]

/-- Masking with one bit of the byte leaves something exactly when that bit is set. -/
theorem and_twoPow_bne_zero {k : Nat} (hk : k < 8) (x : Byte) : (x &&& BitVec.twoPow 8 k != 0) = x.getLsbD k := by
  have hne : BitVec.twoPow 8 k ≠ 0#8 := fun h => by simpa [hk] using congrArg (BitVec.getLsbD · k) h
  rw [BitVec.and_twoPow]
  cases x.getLsbD k <;> simp [hne]

theorem phaseLocked_a (status : Byte) : phaseLocked .a status = status.getLsbD 5 :=
  and_twoPow_bne_zero (k := 5) (by decide) status

theorem phaseLocked_b (status : Byte) : phaseLocked .b status = status.getLsbD 4 :=
  and_twoPow_bne_zero (k := 4) (by decide) status

theorem externalReference_eq (status : Byte) : externalReference status = status.getLsbD 0 := by
  rw [externalReference, Bool.eq_iff_iff, beq_iff_eq, ← BitVec.toNat_inj, getLsbD_eq_decide, decide_eq_true_eq]
  simp [BitVec.extractLsb'_toNat]

/-- Settles O10: each operation answers one bit of the byte. -/
theorem statusByteBits : Obligations.StatusByteBits := by
  refine ⟨fun st s => ?_, fun st s => ?_, fun st s => ?_⟩
  · rw [exec_stphase, phaseLocked_a, getLsbD_eq_decide]
  · rw [exec_stphase, phaseLocked_b, getLsbD_eq_decide]
  · rw [exec_strefsel, externalReference_eq, getLsbD_eq_decide, Nat.pow_zero, Nat.div_one]

end Sys2Proof.Machine

/-! ## The register codec: reading and writing one field (R130, R131) -/

namespace Sys2Proof.Machine

open Sys2Proof Sys2Proof.Safety

/-! ### The tests, and what is answered past them -/

theorem getField_of_inWord {w : Word} {off width : Nat} (h1 : 1 ≤ width) (h : off + width ≤ 32) :
    getField w off width = .ok (bitsOf w off width) := if_neg (by omega)

theorem getField_of_not_inWord {w : Word} {off width : Nat} (h : width < 1 ∨ 32 < off + width) :
    getField w off width = badArgument .fieldRange := if_pos h

theorem setField_of_not_inWord {w v : Word} {off width : Nat} (h : width < 1 ∨ 32 < off + width) :
    setField w off width v = badArgument .fieldRange := if_pos h

theorem setField_of_inWord {w v : Word} {off width : Nat} (h1 : 1 ≤ width) (h : off + width ≤ 32) :
    setField w off width v = if 2 ^ width ≤ v.toNat then badArgument .fieldValue else .ok (putField w off width v) :=
  if_neg (by omega)

theorem setField_of_fits {w v : Word} {off width : Nat} (h1 : 1 ≤ width) (h : off + width ≤ 32)
    (hv : v.toNat < 2 ^ width) : setField w off width v = .ok (putField w off width v) := by
  rw [setField_of_inWord h1 h, if_neg hv.not_ge]

theorem fget_answers_ok {w v : Word} {off width : Nat} (s : State) (h : getField w off width = .ok v) :
    exec (.fget w off width) s = .next (s.respond (.ok (.word v))) := give_map_ok.2 ⟨rfl, v, h, rfl⟩

theorem fset_answers_ok {w v w' : Word} {off width : Nat} (s : State) (h : setField w off width v = .ok w') :
    exec (.fset w off width v) s = .next (s.respond (.ok (.word w'))) := give_map_ok.2 ⟨rfl, w', h, rfl⟩

/-- Settles O11: the value and the bits of `bitsOf`. -/
theorem fgetExtractsTheField : Obligations.FgetExtractsTheField := by
  refine fun w off width s => ⟨fun h1 h => ?_, fun h => give_map_error.2 ⟨rfl, getField_of_not_inWord h⟩⟩
  exact ⟨bitsOf w off width, fget_answers_ok s (getField_of_inWord h1 h), bitsOf_toNat w off width (by omega),
    fun i => bitsOf_getLsbD w off width i h⟩

/-- Settles O12: the two tests of FSET in their order, then the bits of `putField`. -/
theorem fsetChangesOnlyTheField : Obligations.FsetChangesOnlyTheField := by
  refine fun w off width v s => ⟨fun h => ?_, fun h1 h hv => ?_, fun h1 h hv => ?_⟩
  · exact give_map_error.2 ⟨rfl, setField_of_not_inWord h⟩
  · exact give_map_error.2 ⟨rfl, (setField_of_inWord h1 h).trans (if_pos hv)⟩
  · exact ⟨putField w off width v, fset_answers_ok s (setField_of_fits h1 h hv), putField_getLsbD w off width v h hv⟩

/-! ### Laws of reading and writing fields -/

/-- R131: writes to disjoint fields commute. -/
theorem putField_comm_of_disjoint (w : Word) {off width off' width' : Nat} {v v' : Word} (h : off + width ≤ 32)
    (hv : v.toNat < 2 ^ width) (h' : off' + width' ≤ 32) (hv' : v'.toNat < 2 ^ width')
    (hd : off + width ≤ off' ∨ off' + width' ≤ off) :
    putField (putField w off' width' v') off width v = putField (putField w off width v) off' width' v' := by
  apply BitVec.eq_of_getLsbD_eq
  intro i hi
  simp only [putField_getLsbD _ _ _ _ h hv i hi, putField_getLsbD _ _ _ _ h' hv' i hi]
  split_ifs
  · omega
  all_goals rfl

/-- Settles O13: the read-back, write-back and commuting laws of `bitsOf` and `putField`. -/
theorem fieldAccessorsAgree : Obligations.FieldAccessorsAgree := by
  intro w off width s h1 h
  refine ⟨fun v hv => ⟨_, fset_answers_ok s (setField_of_fits h1 h hv), fget_answers_ok s ?_⟩,
    ⟨_, fget_answers_ok s (getField_of_inWord h1 h), fset_answers_ok s ?_⟩, fun off' width' v v' h1' h' hd hv hv' => ?_⟩
  · rw [getField_of_inWord h1 h, bitsOf_putField w off width v h hv]
  · rw [setField_of_fits h1 h (bitsOf_lt w off width (by omega)), putField_bitsOf w off width h]
  · refine ⟨_, _, _, fset_answers_ok s (setField_of_fits h1 h hv), fset_answers_ok s (setField_of_fits h1' h' hv'),
      fset_answers_ok s (setField_of_fits h1' h' hv'), fset_answers_ok s ?_⟩
    rw [setField_of_fits h1 h hv, putField_comm_of_disjoint w h hv h' hv' hd]

end Sys2Proof.Machine

/-! ## The register codec: unpacked records and register images (R132 to R143, R152, R153) -/

namespace Sys2Proof.Machine

open Sys2Proof Sys2Proof.Safety

/-! ### The layout of a register (R23 to R28) -/

/-- Where a member stands in its register: its offset and its width. -/
def Member.field (m : Member) : Nat × Nat := (m.off, m.width)

/-- The field holds bit `i` of the word. -/
def inField (f : Nat × Nat) (i : Nat) : Bool := decide (f.1 ≤ i ∧ i < f.1 + f.2)

theorem inField_iff (m : Member) (i : Nat) : inField m.field i = true ↔ m.off ≤ i ∧ i < m.off + m.width :=
  decide_eq_true_iff

/-- The fields of a register, in ascending order: they lie in the word, are disjoint, and hold exactly the mapped bits. -/
structure IsLayout (fields : List (Nat × Nat)) (mapped : Word) : Prop where
  inWord : ∀ f ∈ fields, f.1 + f.2 ≤ 32
  disjoint : fields.Pairwise fun f g => f.1 + f.2 ≤ g.1
  mapped_bit : ∀ i < 32, mapped.getLsbD i = fields.any (inField · i)

/-- R23. -/
theorem layoutR0 : IsLayout [(0, 3), (3, 12), (15, 16)] mappedR0 := ⟨by decide, by decide, by decide⟩

/-- R24. -/
theorem layoutR1 : IsLayout [(0, 3), (3, 12), (15, 12), (27, 1)] mappedR1 := ⟨by decide, by decide, by decide⟩

/-- R25. -/
theorem layoutR2 : IsLayout [(0, 3), (3, 1), (4, 1), (5, 1), (6, 1), (7, 1), (8, 1), (9, 4), (13, 1), (14, 10), (24, 1), (25, 1),
    (26, 3), (29, 2)] mappedR2 := ⟨by decide, by decide, by decide⟩

/-- R26. -/
theorem layoutR3 : IsLayout [(0, 3), (3, 12), (15, 2), (18, 1)] mappedR3 := ⟨by decide, by decide, by decide⟩

/-- R27. -/
theorem layoutR4 : IsLayout [(0, 3), (3, 2), (5, 1), (6, 2), (8, 1), (9, 1), (10, 1), (11, 1), (12, 8), (20, 3), (23, 1)]
    mappedR4 := ⟨by decide, by decide, by decide⟩

/-- R28. -/
theorem layoutR5 : IsLayout [(0, 3), (22, 2)] mappedR5 := ⟨by decide, by decide, by decide⟩

/-! ### Masked words as numbers (R7) -/

/-- A mask of one field keeps that field, in place. -/
theorem and_fieldMask_toNat (w : Word) {off width : Nat} (h : off + width ≤ 32) :
    (w &&& fieldMask off width).toNat = w.toNat / 2 ^ off % 2 ^ width * 2 ^ off := by
  apply Nat.eq_of_testBit_eq
  intro i
  rw [BitVec.testBit_toNat, BitVec.getLsbD_and, fieldMask_getLsbD _ _ _ h, ← Nat.shiftLeft_eq, Nat.testBit_shiftLeft,
    Nat.testBit_mod_two_pow, Nat.testBit_div_two_pow, BitVec.testBit_toNat]
  by_cases hoff : off ≤ i
  · simp [hoff, Nat.sub_lt_iff_lt_add' hoff, Bool.and_comm]
  · simp [hoff]

theorem and_fieldMask (w : Word) {off width : Nat} (h : off + width ≤ 32) :
    w &&& fieldMask off width = BitVec.ofNat 32 (w.toNat / 2 ^ off % 2 ^ width * 2 ^ off) := by
  rw [← and_fieldMask_toNat w h, BitVec.ofNat_toNat, BitVec.setWidth_eq]

/-- A mask of everything from bit `off` on drops the bits below. -/
theorem and_highMask (w : Word) {off : Nat} (h : off ≤ 32) :
    w &&& fieldMask off (32 - off) = BitVec.ofNat 32 (w.toNat / 2 ^ off * 2 ^ off) := by
  have hlt : w.toNat / 2 ^ off < 2 ^ (32 - off) := by
    rw [Nat.div_lt_iff_lt_mul (by positivity), ← pow_add, Nat.sub_add_cancel h]
    exact w.isLt
  rw [and_fieldMask w (by omega), Nat.mod_eq_of_lt hlt]

/-- Masked with one field, a word is zero exactly when the field is. -/
theorem and_fieldMask_eq_zero_iff (w : Word) {off width : Nat} (h : off + width ≤ 32) :
    w &&& fieldMask off width = 0 ↔ w.toNat / 2 ^ off % 2 ^ width = 0 := by
  rw [← BitVec.toNat_inj, and_fieldMask_toNat w h]
  simp

/-- The lowest field is a remainder. -/
theorem and_lowMask_eq_zero_iff (w : Word) {width : Nat} (h : width ≤ 32) :
    w &&& fieldMask 0 width = 0 ↔ w.toNat % 2 ^ width = 0 := by
  rw [and_fieldMask_eq_zero_iff w (by omega), Nat.pow_zero, Nat.div_one]

theorem and_or_eq_zero_iff (w a b : Word) : w &&& (a ||| b) = 0 ↔ w &&& a = 0 ∧ w &&& b = 0 := by
  simp [BitVec.and_or_distrib_left]

/-- A mask of a field and of everything from a bit above it on keeps the sum of both. -/
theorem and_highMask_or_fieldMask (w : Word) {high off width : Nat} (h : off + width ≤ high) (hhigh : high ≤ 32) :
    w &&& (fieldMask high (32 - high) ||| fieldMask off width) =
      BitVec.ofNat 32 (w.toNat / 2 ^ high * 2 ^ high + w.toNat / 2 ^ off % 2 ^ width * 2 ^ off) := by
  have hd : (w &&& fieldMask high (32 - high)) &&& (w &&& fieldMask off width) = 0 := by
    apply BitVec.eq_of_getLsbD_eq
    intro i hi
    simp only [BitVec.getLsbD_and, fieldMask_getLsbD _ _ _ (show high + (32 - high) ≤ 32 by omega),
      fieldMask_getLsbD _ _ _ (show off + width ≤ 32 by omega)]
    by_cases hlow : i < high
    · simp [hlow.not_ge]
    · simp [show ¬ i < off + width by omega]
  rw [BitVec.and_or_distrib_left, ← BitVec.add_eq_or_of_and_eq_zero _ _ hd, and_highMask w hhigh,
    and_fieldMask w (by omega), BitVec.ofNat_add]

/-! ### Unpacking (R132 to R137) -/

theorem exec_unpackr0 (w : Word) (s : State) :
    exec (.unpackr0 w) s = .next (s.respond (.ok (.unpackedR0 (unpackR0 w)))) := rfl

theorem exec_unpackr1 (w : Word) (s : State) :
    exec (.unpackr1 w) s = .next (s.respond (.ok (.unpackedR1 (unpackR1 w)))) := rfl

theorem exec_unpackr2 (w : Word) (s : State) :
    exec (.unpackr2 w) s = .next (s.respond (.ok (.unpackedR2 (unpackR2 w)))) := rfl

theorem exec_unpackr3 (w : Word) (s : State) :
    exec (.unpackr3 w) s = .next (s.respond (.ok (.unpackedR3 (unpackR3 w)))) := rfl

theorem exec_unpackr4 (w : Word) (s : State) :
    exec (.unpackr4 w) s = .next (s.respond (.ok (.unpackedR4 (unpackR4 w)))) := rfl

theorem exec_unpackr5 (w : Word) (s : State) :
    exec (.unpackr5 w) s = .next (s.respond (.ok (.unpackedR5 (unpackR5 w)))) := rfl

theorem bitsOf_eq_fieldOf (w : Word) (off width : Nat) : bitsOf w off width = fieldOf w off width := rfl

/-- R23, R25: bit 31. -/
theorem unmapped_bit31 (w : Word) : w &&& 0x80000000 = BitVec.ofNat 32 (w.toNat / 2 ^ 31 * 2 ^ 31) :=
  and_highMask w (off := 31) (by decide)

/-- R24: bits 31:28. -/
theorem unmapped_bits31to28 (w : Word) : w &&& 0xF0000000 = BitVec.ofNat 32 (w.toNat / 2 ^ 28 * 2 ^ 28) :=
  and_highMask w (off := 28) (by decide)

/-- R26: bits 31:19 and bit 17. -/
theorem unmapped_bits31to19_bit17 (w : Word) :
    w &&& 0xFFFA0000 = BitVec.ofNat 32 (w.toNat / 2 ^ 19 * 2 ^ 19 + w.toNat / 2 ^ 17 % 2 * 2 ^ 17) :=
  and_highMask_or_fieldMask w (high := 19) (off := 17) (width := 1) (by decide) (by decide)

/-- R27: bits 31:24. -/
theorem unmapped_bits31to24 (w : Word) : w &&& 0xFF000000 = BitVec.ofNat 32 (w.toNat / 2 ^ 24 * 2 ^ 24) :=
  and_highMask w (off := 24) (by decide)

/-- R28: bits 31:24 and 21:3. -/
theorem unmapped_bits31to24_21to3 (w : Word) :
    w &&& 0xFF3FFFF8 = BitVec.ofNat 32 (w.toNat / 2 ^ 24 * 2 ^ 24 + w.toNat / 2 ^ 3 % 2 ^ 19 * 2 ^ 3) :=
  and_highMask_or_fieldMask w (high := 24) (off := 3) (width := 19) (by decide) (by decide)

/-- Settles O14: a mapped member is its field, and the mask of `rsvd` keeps the unmapped bits in place. -/
theorem unpackReadsEveryField : Obligations.UnpackReadsEveryField := by
  refine fun w s => ⟨?_, ?_, ?_, ?_, ?_, ?_⟩
  · simp only [exec_unpackr0, unpackR0, unmapped_bit31, bitsOf_eq_fieldOf]
  · simp only [exec_unpackr1, unpackR1, unmapped_bits31to28, bitsOf_eq_fieldOf]
  · simp only [exec_unpackr2, unpackR2, unmapped_bit31, bitsOf_eq_fieldOf]
  · simp only [exec_unpackr3, unpackR3, unmapped_bits31to19_bit17, bitsOf_eq_fieldOf]
  · simp only [exec_unpackr4, unpackR4, unmapped_bits31to24, bitsOf_eq_fieldOf]
  · simp only [exec_unpackr5, unpackR5, unmapped_bits31to24_21to3, bitsOf_eq_fieldOf]

/-! ### Packing: the image, bit by bit, and when it is refused (R138 to R143, R257) -/

theorem ascending_of_pairwise {members : List Member}
    (h : (members.map Member.field).Pairwise fun f g => f.1 + f.2 ≤ g.1) : Ascending members := by
  induction members with
  | nil => trivial
  | cons m t ih =>
    obtain ⟨hm, ht⟩ := List.pairwise_cons.1 h
    exact ⟨fun n hn => hm n.field (List.mem_map_of_mem hn), ih ht⟩

section
variable {members : List Member} {mapped rsvd w : Word}

/-- A bit of the word lies in at most one member's field. -/
theorem IsLayout.member_unique (hl : IsLayout (members.map Member.field) mapped) {m n : Member} {i : Nat}
    (hm : m ∈ members) (hn : n ∈ members) (him : inField m.field i = true) (hin : inField n.field i = true) : m = n := by
  have hd := List.pairwise_map.1 hl.disjoint
  refine List.Pairwise.forall_of_forall_of_flip (R := fun m n => inField m.field i = true → inField n.field i = true → m = n)
    (fun _ _ _ _ => rfl) (hd.imp fun h => ?_) (hd.imp fun h => ?_) hm hn him hin <;>
  · intro ha hb
    rw [inField_iff] at ha hb
    simp only [Member.field] at h
    omega

theorem IsLayout.mapped_bit_iff (hl : IsLayout (members.map Member.field) mapped) {i : Nat} (hi : i < 32) :
    mapped.getLsbD i = true ↔ ∃ m ∈ members, inField m.field i = true := by
  rw [hl.mapped_bit i hi, List.any_map, List.any_eq_true]
  rfl

theorem IsLayout.member_inWord (hl : IsLayout (members.map Member.field) mapped) {m : Member} (hm : m ∈ members) :
    m.off + m.width ≤ 32 := hl.inWord m.field (List.mem_map_of_mem hm)

/-- The bits of an image: those it is made on, and in each field those of its member. -/
theorem foldl_or_getLsbD {acc : Word} (hv : ∀ m ∈ members, m.value.toNat < 2 ^ m.width) {i : Nat} (hi : i < 32) :
    (members.foldl (fun w m => w ||| m.value <<< m.off) acc).getLsbD i = true ↔
      acc.getLsbD i = true ∨ ∃ m ∈ members, inField m.field i = true ∧ m.value.getLsbD (i - m.off) = true := by
  induction members generalizing acc with
  | nil => simp
  | cons m t ih =>
    obtain ⟨hm, ht⟩ := List.forall_mem_cons.1 hv
    have hshift : (m.value <<< m.off).getLsbD i = true ↔ inField m.field i = true ∧ m.value.getLsbD (i - m.off) = true := by
      have hfits : m.value.getLsbD (i - m.off) = true → i - m.off < m.width := fun hbit =>
        not_le.1 fun hle => by simp [getLsbD_of_fits m.value m.width _ hm hle] at hbit
      simp only [BitVec.getLsbD_shiftLeft, hi, inField_iff, Bool.and_eq_true, Bool.not_eq_true', decide_true,
        decide_eq_false_iff_not, true_and]
      exact and_congr_left fun hbit => by have := hfits hbit; omega
    rw [List.foldl_cons, ih ht, BitVec.getLsbD_or, Bool.or_eq_true, hshift, or_assoc, List.exists_mem_cons_iff]

theorem find?_misfit_eq_none : members.find? (fun m => decide (2 ^ m.width ≤ m.value.toNat)) = none ↔
    ∀ m ∈ members, m.value.toNat < 2 ^ m.width := by
  simp [List.find?_eq_none]

/-- What a pack that answers an image did, with the tests it passed. -/
theorem packMembers_eq_ok_iff : packMembers members mapped rsvd = .ok w ↔
    (∀ m ∈ members, m.value.toNat < 2 ^ m.width) ∧ rsvd &&& mapped = 0 ∧
      members.foldl (fun w m => w ||| m.value <<< m.off) rsvd = w := by
  rw [← find?_misfit_eq_none, packMembers]
  split
  case h_1 m hm => simp [hm, badArgument]
  case h_2 hm =>
    split_ifs with h
    · exact iff_of_false nofun fun ⟨_, hr, _⟩ => h hr
    · simp [hm, not_not.1 h]

/-- R257: the refusal for the first member that does not fit, before the answer `r` of a record whose members all fit. -/
def refuseMisfit : List Member → Response → Response
  | [], r => r
  | m :: t, r => if 2 ^ m.width ≤ m.value.toNat then .error (.invalidArgument (.field m.name)) else refuseMisfit t r

theorem refuseMisfit_of_fits {r : Response} (h : ∀ m ∈ members, m.value.toNat < 2 ^ m.width) : refuseMisfit members r = r := by
  induction members with
  | nil => rfl
  | cons m t ih =>
    obtain ⟨hm, ht⟩ := List.forall_mem_cons.1 h
    rw [refuseMisfit, if_neg hm.not_ge, ih ht]

theorem refuseMisfit_of_find {m : Member} {r : Response}
    (h : members.find? (fun m => decide (2 ^ m.width ≤ m.value.toNat)) = some m) :
    refuseMisfit members r = .error (.invalidArgument (.field m.name)) := by
  induction members with
  | nil => nomatch h
  | cons n t ih =>
    rw [refuseMisfit]
    split_ifs with hn
    · simp only [List.find?_cons, hn, decide_true, Option.some.injEq] at h
      rw [h]
    · simp only [List.find?_cons, hn, decide_false] at h
      exact ih h

/-- The sum of R138 to R143: `rsvd`, then each member at its offset, the last one first. -/
def imageSum (rsvd : Word) : List Member → Nat
  | [] => rsvd.toNat
  | m :: t => imageSum rsvd t + m.value.toNat * 2 ^ m.off

theorem imageSum_eq (rsvd : Word) (members : List Member) :
    imageSum rsvd members = rsvd.toNat + (members.map fun m => m.value.toNat * 2 ^ m.off).sum := by
  induction members with
  | nil => rfl
  | cons m t ih =>
    rw [imageSum, ih, List.map_cons, List.sum_cons]
    omega

/-- A pack answers the sum if every member fits and `rsvd` holds no mapped bit. -/
theorem packMembers_of_fits (hl : IsLayout (members.map Member.field) mapped)
    (hv : ∀ m ∈ members, m.value.toNat < 2 ^ m.width) (hr : rsvd &&& mapped = 0) :
    packMembers members mapped rsvd = .ok (BitVec.ofNat 32 (imageSum rsvd members)) := by
  rw [imageSum_eq]
  refine packMembers_ok members mapped rsvd (ascending_of_pairwise hl.disjoint) hv hr fun m hm i h1 h2 => ?_
  have := hl.member_inWord hm
  exact (hl.mapped_bit_iff (by omega)).2 ⟨m, hm, (inField_iff m i).2 ⟨h1, h2⟩⟩

/-- A pack is refused if a member does not fit or `rsvd` holds a mapped bit. -/
theorem packMembers_of_not_fits (h : ¬ ((∀ m ∈ members, m.value.toNat < 2 ^ m.width) ∧ rsvd &&& mapped = 0)) :
    ∃ which, packMembers members mapped rsvd = badArgument which := by
  rw [← find?_misfit_eq_none] at h
  rw [packMembers]
  split
  case h_1 m _ => exact ⟨.field m.name, rfl⟩
  case h_2 hm => exact ⟨.rsvd, if_pos fun hr => h ⟨hm, hr⟩⟩

/-- What a pack answers: the first member that does not fit, then `rsvd`, then the sum. -/
theorem responseOf_packMembers (hl : IsLayout (members.map Member.field) mapped) :
    responseOf ((packMembers members mapped rsvd).map .word) = refuseMisfit members
      (if rsvd &&& mapped ≠ 0 then .error (.invalidArgument .rsvd)
      else .ok (.word (BitVec.ofNat 32 (imageSum rsvd members)))) := by
  cases hm : members.find? fun m => decide (2 ^ m.width ≤ m.value.toNat) with
  | some m =>
    rw [refuseMisfit_of_find hm, packMembers, hm]
    rfl
  | none =>
    have hv := find?_misfit_eq_none.1 hm
    rw [refuseMisfit_of_fits hv]
    split_ifs with hr
    · rw [packMembers, hm]
      simp only [if_pos hr]
      rfl
    · rw [packMembers_of_fits hl hv (not_not.1 hr)]
      rfl

/-- R152: the members that an unpack reads make its word again. -/
theorem packMembers_bitsOf (hl : IsLayout (members.map Member.field) mapped)
    (hv : ∀ m ∈ members, m.value = bitsOf w m.off m.width) : packMembers members mapped (w &&& ~~~mapped) = .ok w := by
  have hfits : ∀ m ∈ members, m.value.toNat < 2 ^ m.width := fun m hm => by
    have := hl.member_inWord hm
    exact hv m hm ▸ bitsOf_lt w m.off m.width (by omega)
  have hread : ∀ m ∈ members, ∀ i, inField m.field i = true → m.value.getLsbD (i - m.off) = w.getLsbD i := by
    intro m hm i hi
    obtain ⟨hoff, hlt⟩ := (inField_iff m i).1 hi
    rw [hv m hm, bitsOf_getLsbD _ _ _ _ (hl.member_inWord hm), Nat.add_sub_cancel' hoff,
      decide_eq_true (by omega), Bool.true_and]
  refine packMembers_eq_ok_iff.2 ⟨hfits, by simp [BitVec.and_assoc], BitVec.eq_of_getLsbD_eq fun i hi => ?_⟩
  rw [Bool.eq_iff_iff, foldl_or_getLsbD hfits hi, BitVec.getLsbD_and, Bool.and_eq_true]
  refine ⟨?_, fun hw => ?_⟩
  · rintro (⟨hw, -⟩ | ⟨m, hm, hin, hbit⟩)
    · exact hw
    · rwa [hread m hm i hin] at hbit
  · by_cases hmapped : mapped.getLsbD i = true
    · obtain ⟨m, hm, hin⟩ := (hl.mapped_bit_iff hi).1 hmapped
      exact .inr ⟨m, hm, hin, (hread m hm i hin).trans hw⟩
    · exact .inl ⟨hw, by rw [BitVec.getLsbD_not, decide_eq_true hi, Bool.eq_false_of_not_eq_true hmapped]; rfl⟩

theorem getLsbD_of_and_eq_zero (hr : rsvd &&& mapped = 0) {i : Nat} (hmapped : mapped.getLsbD i = true) :
    rsvd.getLsbD i = false := by
  simpa [hmapped] using congrArg (·.getLsbD i) hr

/-- A bit of an image that a pack answers: that of `rsvd`, or of the member whose field it lies in. -/
theorem getLsbD_of_packMembers (h : packMembers members mapped rsvd = .ok w) {i : Nat} (hi : i < 32) :
    w.getLsbD i = true ↔ rsvd.getLsbD i = true ∨
      ∃ m ∈ members, inField m.field i = true ∧ m.value.getLsbD (i - m.off) = true := by
  obtain ⟨hv, -, rfl⟩ := packMembers_eq_ok_iff.1 h
  exact foldl_or_getLsbD hv hi

theorem getLsbD_of_packMembers_inField (h : packMembers members mapped rsvd = .ok w)
    (hl : IsLayout (members.map Member.field) mapped) {m : Member} (hm : m ∈ members) {i : Nat} (hi : i < 32)
    (hin : inField m.field i = true) : w.getLsbD i = m.value.getLsbD (i - m.off) := by
  obtain ⟨-, hr, -⟩ := packMembers_eq_ok_iff.1 h
  have hclear := getLsbD_of_and_eq_zero hr ((hl.mapped_bit_iff hi).2 ⟨m, hm, hin⟩)
  rw [Bool.eq_iff_iff, getLsbD_of_packMembers h hi, hclear]
  refine ⟨?_, fun hval => .inr ⟨m, hm, hin, hval⟩⟩
  rintro (hfalse | ⟨n, hn, hnin, hval⟩)
  · nomatch hfalse
  · rwa [hl.member_unique hm hn hin hnin]

theorem getLsbD_of_packMembers_unmapped (h : packMembers members mapped rsvd = .ok w)
    (hl : IsLayout (members.map Member.field) mapped) {i : Nat} (hi : i < 32) (hmapped : mapped.getLsbD i = false) :
    w.getLsbD i = rsvd.getLsbD i := by
  rw [Bool.eq_iff_iff, getLsbD_of_packMembers h hi, or_iff_left]
  rintro ⟨m, hm, hin, -⟩
  simp [(hl.mapped_bit_iff hi).2 ⟨m, hm, hin⟩] at hmapped

/-- R153: each field of an image that a pack answers holds its member, and the unmapped bits are `rsvd`. -/
theorem bitsOf_of_packMembers (h : packMembers members mapped rsvd = .ok w)
    (hl : IsLayout (members.map Member.field) mapped) :
    (∀ m ∈ members, bitsOf w m.off m.width = m.value) ∧ w &&& ~~~mapped = rsvd := by
  obtain ⟨hv, hr, -⟩ := packMembers_eq_ok_iff.1 h
  refine ⟨fun m hm => BitVec.eq_of_getLsbD_eq fun i _ => ?_, BitVec.eq_of_getLsbD_eq fun i hi => ?_⟩
  · have hword := hl.member_inWord hm
    rw [bitsOf_getLsbD _ _ _ _ hword]
    by_cases hiw : i < m.width
    · rw [getLsbD_of_packMembers_inField h hl hm (by omega) ((inField_iff m _).2 ⟨by omega, by omega⟩),
        Nat.add_sub_cancel_left, decide_eq_true hiw, Bool.true_and]
    · rw [decide_eq_false hiw, Bool.false_and, getLsbD_of_fits _ _ _ (hv m hm) (not_lt.1 hiw)]
  · rw [BitVec.getLsbD_and, BitVec.getLsbD_not, decide_eq_true hi, Bool.true_and]
    cases hmapped : mapped.getLsbD i with
    | true => rw [getLsbD_of_and_eq_zero hr hmapped, Bool.not_true, Bool.and_false]
    | false => rw [getLsbD_of_packMembers_unmapped h hl hi hmapped, Bool.not_false, Bool.and_true]

end

end Sys2Proof.Machine

/-! ## The six packs, and their round trips with the unpacks (R138 to R143, R152, R153) -/

namespace Sys2Proof.Machine

open Sys2Proof Sys2Proof.Safety

/-! ### What each operation answers -/

theorem exec_packr0 (u : UnpackedR0) (s : State) : exec (.packr0 u) s = give ((packR0 u).map .word) s := rfl

theorem exec_packr1 (u : UnpackedR1) (s : State) : exec (.packr1 u) s = give ((packR1 u).map .word) s := rfl

theorem exec_packr2 (u : UnpackedR2) (s : State) : exec (.packr2 u) s = give ((packR2 u).map .word) s := rfl

theorem exec_packr3 (u : UnpackedR3) (s : State) : exec (.packr3 u) s = give ((packR3 u).map .word) s := rfl

theorem exec_packr4 (u : UnpackedR4) (s : State) : exec (.packr4 u) s = give ((packR4 u).map .word) s := rfl

theorem exec_packr5 (u : UnpackedR5) (s : State) : exec (.packr5 u) s = give ((packR5 u).map .word) s := rfl

/-! ### A `rsvd` without mapped bits (R23 to R28) -/

theorem and_mappedR0_eq_zero_iff (w : Word) : w &&& mappedR0 = 0 ↔ w.toNat % 2 ^ 31 = 0 :=
  and_lowMask_eq_zero_iff w (width := 31) (by decide)

theorem and_mappedR1_eq_zero_iff (w : Word) : w &&& mappedR1 = 0 ↔ w.toNat % 2 ^ 28 = 0 :=
  and_lowMask_eq_zero_iff w (width := 28) (by decide)

theorem and_mappedR2_eq_zero_iff (w : Word) : w &&& mappedR2 = 0 ↔ w.toNat % 2 ^ 31 = 0 :=
  and_lowMask_eq_zero_iff w (width := 31) (by decide)

theorem and_mappedR3_eq_zero_iff (w : Word) : w &&& mappedR3 = 0 ↔ w.toNat % 2 ^ 17 = 0 ∧ w.toNat / 2 ^ 18 % 2 = 0 :=
  (and_or_eq_zero_iff w (fieldMask 0 17) (fieldMask 18 1)).trans
    (and_congr (and_lowMask_eq_zero_iff w (by decide)) (and_fieldMask_eq_zero_iff w (by decide)))

theorem and_mappedR4_eq_zero_iff (w : Word) : w &&& mappedR4 = 0 ↔ w.toNat % 2 ^ 24 = 0 :=
  and_lowMask_eq_zero_iff w (width := 24) (by decide)

theorem and_mappedR5_eq_zero_iff (w : Word) : w &&& mappedR5 = 0 ↔ w.toNat % 2 ^ 3 = 0 ∧ w.toNat / 2 ^ 22 % 4 = 0 :=
  (and_or_eq_zero_iff w (fieldMask 0 3) (fieldMask 22 2)).trans
    (and_congr (and_lowMask_eq_zero_iff w (by decide)) (and_fieldMask_eq_zero_iff w (by decide)))

/-! ### The image or a refusal (R138 to R143) -/

/-- Settles O15: the tests in their order and the sum, for the members of each register. -/
theorem packRegisters0And1And3And5 : Obligations.PackRegisters0And1And3And5 := by
  refine ⟨fun u s => ?_, fun u s => ?_, fun u s => ?_, fun u s => ?_⟩
  · rw [exec_packr0, packR0, give_eq, responseOf_packMembers]
    · simp only [refuseMisfit, imageSum, ne_eq, and_mappedR0_eq_zero_iff, Nat.reducePow, mul_one]
    · exact layoutR0
  · rw [exec_packr1, packR1, give_eq, responseOf_packMembers]
    · simp only [refuseMisfit, imageSum, ne_eq, and_mappedR1_eq_zero_iff, Nat.reducePow, mul_one]
    · exact layoutR1
  · rw [exec_packr3, packR3, give_eq, responseOf_packMembers]
    · simp only [refuseMisfit, imageSum, ne_eq, and_mappedR3_eq_zero_iff, not_and_or, Nat.reducePow, mul_one]
    · exact layoutR3
  · rw [exec_packr5, packR5, give_eq, responseOf_packMembers]
    · simp only [refuseMisfit, imageSum, ne_eq, and_mappedR5_eq_zero_iff, not_and_or, Nat.reducePow, mul_one]
    · exact layoutR5

/-- The two answers of a pack, however it is said that the members fit and `rsvd` has no mapped bit, and what the sum is. -/
theorem give_packMembers {members : List Member} {mapped rsvd : Word} {fits : Prop} {image : Nat} (s : State)
    (hl : IsLayout (members.map Member.field) mapped)
    (hfits : fits ↔ (∀ m ∈ members, m.value.toNat < 2 ^ m.width) ∧ rsvd &&& mapped = 0)
    (himage : imageSum rsvd members = image) :
    (fits → give ((packMembers members mapped rsvd).map .word) s =
      .next (s.respond (.ok (.word (BitVec.ofNat 32 image))))) ∧
    (¬ fits → ∃ which, give ((packMembers members mapped rsvd).map .word) s =
      .next (s.respond (.error (.invalidArgument which)))) := by
  subst himage
  refine ⟨fun h => ?_, fun h => ?_⟩
  · obtain ⟨hv, hr⟩ := hfits.1 h
    exact give_map_ok.2 ⟨rfl, _, packMembers_of_fits hl hv hr, rfl⟩
  · obtain ⟨which, hw⟩ := packMembers_of_not_fits fun hand => h (hfits.2 hand)
    exact ⟨which, give_map_error.2 ⟨rfl, hw⟩⟩

/-- Settles O16: `give_packMembers` with the bounds and the sum of each register written out. -/
theorem packRegisters2And4 : Obligations.PackRegisters2And4 := by
  refine ⟨fun u s => ?_, fun u s => ?_⟩
  · intro fits
    rw [exec_packr2, packR2]
    refine give_packMembers s layoutR2 ?_ ?_
    · simp only [fits, List.forall_mem_cons, List.not_mem_nil, false_imp_iff, implies_true, true_and, and_assoc,
        and_mappedR2_eq_zero_iff, Nat.reducePow]
    · simp only [imageSum, pow_zero, mul_one]
  · intro fits
    rw [exec_packr4, packR4]
    refine give_packMembers s layoutR4 ?_ ?_
    · simp only [fits, List.forall_mem_cons, List.not_mem_nil, false_imp_iff, implies_true, true_and, and_assoc,
        and_mappedR4_eq_zero_iff, Nat.reducePow]
    · simp only [imageSum, pow_zero, mul_one]

/-! ### An image unpacked and packed again (R152) -/

theorem packR0_unpackR0 (w : Word) : packR0 (unpackR0 w) = .ok w :=
  packMembers_bitsOf layoutR0 (by simp [unpackR0])

theorem packR1_unpackR1 (w : Word) : packR1 (unpackR1 w) = .ok w :=
  packMembers_bitsOf layoutR1 (by simp [unpackR1])

theorem packR2_unpackR2 (w : Word) : packR2 (unpackR2 w) = .ok w :=
  packMembers_bitsOf layoutR2 (by simp [unpackR2])

theorem packR3_unpackR3 (w : Word) : packR3 (unpackR3 w) = .ok w :=
  packMembers_bitsOf layoutR3 (by simp [unpackR3])

theorem packR4_unpackR4 (w : Word) : packR4 (unpackR4 w) = .ok w :=
  packMembers_bitsOf layoutR4 (by simp [unpackR4])

theorem packR5_unpackR5 (w : Word) : packR5 (unpackR5 w) = .ok w :=
  packMembers_bitsOf layoutR5 (by simp [unpackR5])

/-- Settles O17: each pack gives back the word that was unpacked. -/
theorem packAfterUnpackIsIdentity : Obligations.PackAfterUnpackIsIdentity :=
  fun w s =>
    ⟨⟨unpackR0 w, exec_unpackr0 w s, give_map_ok.2 ⟨rfl, w, packR0_unpackR0 w, rfl⟩⟩,
     ⟨unpackR1 w, exec_unpackr1 w s, give_map_ok.2 ⟨rfl, w, packR1_unpackR1 w, rfl⟩⟩,
     ⟨unpackR2 w, exec_unpackr2 w s, give_map_ok.2 ⟨rfl, w, packR2_unpackR2 w, rfl⟩⟩,
     ⟨unpackR3 w, exec_unpackr3 w s, give_map_ok.2 ⟨rfl, w, packR3_unpackR3 w, rfl⟩⟩,
     ⟨unpackR4 w, exec_unpackr4 w s, give_map_ok.2 ⟨rfl, w, packR4_unpackR4 w, rfl⟩⟩,
     ⟨unpackR5 w, exec_unpackr5 w s, give_map_ok.2 ⟨rfl, w, packR5_unpackR5 w, rfl⟩⟩⟩

/-! ### A record packed and unpacked again (R153) -/

theorem unpackR0_of_packR0 {u : UnpackedR0} {w : Word} (h : packR0 u = .ok w) : unpackR0 w = u := by
  obtain ⟨hfields, hrsvd⟩ := bitsOf_of_packMembers h layoutR0
  change w &&& 0x80000000 = u.rsvd at hrsvd
  simp only [List.forall_mem_cons] at hfields
  simp only [unpackR0, hfields, hrsvd]

theorem unpackR1_of_packR1 {u : UnpackedR1} {w : Word} (h : packR1 u = .ok w) : unpackR1 w = u := by
  obtain ⟨hfields, hrsvd⟩ := bitsOf_of_packMembers h layoutR1
  change w &&& 0xF0000000 = u.rsvd at hrsvd
  simp only [List.forall_mem_cons] at hfields
  simp only [unpackR1, hfields, hrsvd]

theorem unpackR2_of_packR2 {u : UnpackedR2} {w : Word} (h : packR2 u = .ok w) : unpackR2 w = u := by
  obtain ⟨hfields, hrsvd⟩ := bitsOf_of_packMembers h layoutR2
  change w &&& 0x80000000 = u.rsvd at hrsvd
  simp only [List.forall_mem_cons] at hfields
  simp only [unpackR2, hfields, hrsvd]

theorem unpackR3_of_packR3 {u : UnpackedR3} {w : Word} (h : packR3 u = .ok w) : unpackR3 w = u := by
  obtain ⟨hfields, hrsvd⟩ := bitsOf_of_packMembers h layoutR3
  change w &&& 0xFFFA0000 = u.rsvd at hrsvd
  simp only [List.forall_mem_cons] at hfields
  simp only [unpackR3, hfields, hrsvd]

theorem unpackR4_of_packR4 {u : UnpackedR4} {w : Word} (h : packR4 u = .ok w) : unpackR4 w = u := by
  obtain ⟨hfields, hrsvd⟩ := bitsOf_of_packMembers h layoutR4
  change w &&& 0xFF000000 = u.rsvd at hrsvd
  simp only [List.forall_mem_cons] at hfields
  simp only [unpackR4, hfields, hrsvd]

theorem unpackR5_of_packR5 {u : UnpackedR5} {w : Word} (h : packR5 u = .ok w) : unpackR5 w = u := by
  obtain ⟨hfields, hrsvd⟩ := bitsOf_of_packMembers h layoutR5
  change w &&& 0xFF3FFFF8 = u.rsvd at hrsvd
  simp only [List.forall_mem_cons] at hfields
  simp only [unpackR5, hfields, hrsvd]

/-- A pack that answers the word `w` made it. -/
theorem ok_of_give_word {r : Except Error Word} {s : State} {w : Word}
    (h : give (r.map .word) s = .next (s.respond (.ok (.word w)))) : r = .ok w := by
  obtain ⟨_, _, hr, hw⟩ := give_map_ok.1 h
  cases hw
  exact hr

/-- Settles O18: each unpack gives back the record that was packed. -/
theorem unpackAfterPackIsIdentity : Obligations.UnpackAfterPackIsIdentity := by
  refine fun w s => ⟨fun u h => ?_, fun u h => ?_, fun u h => ?_, fun u h => ?_, fun u h => ?_, fun u h => ?_⟩
  · rw [exec_unpackr0, unpackR0_of_packR0 (ok_of_give_word h)]
  · rw [exec_unpackr1, unpackR1_of_packR1 (ok_of_give_word h)]
  · rw [exec_unpackr2, unpackR2_of_packR2 (ok_of_give_word h)]
  · rw [exec_unpackr3, unpackR3_of_packR3 (ok_of_give_word h)]
  · rw [exec_unpackr4, unpackR4_of_packR4 (ok_of_give_word h)]
  · rw [exec_unpackr5, unpackR5_of_packR5 (ok_of_give_word h)]

end Sys2Proof.Machine

/-! ## The register block (R42, R144, R145) -/

namespace Sys2Proof.Machine

open Sys2Proof Sys2Proof.Safety

theorem exec_packblk (x : RegBlock) (s : State) : exec (.packblk x) s = .next (s.respond (.ok (.bytes (packBlock x)))) := rfl

theorem exec_unpackblk (b : Bytes) (s : State) : exec (.unpackblk b) s = give ((unpackBlock b).map .block) s := rfl

/-- Four bytes and more begin with the bytes of a word. -/
theorem exists_packU32_append {b : Bytes} {n : Nat} (h : b.length = n + 4) : ∃ v t, b = packU32 v ++ t ∧ t.length = n := by
  match b, h with
  | b0 :: b1 :: b2 :: b3 :: t, h =>
    refine ⟨joinU32 b0 b1 b2 b3, t, ?_, by simpa using h⟩
    rw [packU32_joinU32]
    rfl

/-- R144: any 24 bytes are those of a block. -/
theorem exists_packBlock_eq {b : Bytes} (h : b.length = 24) : ∃ x, packBlock x = b := by
  obtain ⟨r0, b1, rfl, h1⟩ := exists_packU32_append (n := 20) h
  obtain ⟨r1, b2, rfl, h2⟩ := exists_packU32_append (n := 16) h1
  obtain ⟨r2, b3, rfl, h3⟩ := exists_packU32_append (n := 12) h2
  obtain ⟨r3, b4, rfl, h4⟩ := exists_packU32_append (n := 8) h3
  obtain ⟨r4, b5, rfl, h5⟩ := exists_packU32_append (n := 4) h4
  obtain ⟨r5, b6, rfl, h6⟩ := exists_packU32_append (n := 0) h5
  rw [List.eq_nil_of_length_eq_zero h6, List.append_nil]
  exact ⟨⟨r0, r1, r2, r3, r4, r5⟩, rfl⟩

theorem unpackBlock_of_length_ne {b : Bytes} (h : b.length ≠ 24) : unpackBlock b = badArgument .length := by
  unfold unpackBlock
  split
  case h_1 x hx =>
    rw [(takeRegBlock_eq_some b x []).1 hx, List.append_nil] at h
    exact absurd (putRegBlock_length x) h
  case h_2 => rfl

/-- Settles O19: `unpackBlock_packBlock`, and every 24 bytes are a packed block. -/
theorem registerBlockCodec : Obligations.RegisterBlockCodec := by
  have hunpack : ∀ (x : RegBlock) (s : State), exec (.unpackblk (packBlock x)) s = .next (s.respond (.ok (.block x))) :=
    fun x _ => give_map_ok.2 ⟨rfl, x, unpackBlock_packBlock x, rfl⟩
  refine ⟨fun x s => ?_, fun b s h => ?_, fun b s h => ?_, fun x s => ?_⟩
  · rw [exec_packblk, packBlock_eq]
  · obtain ⟨x, rfl⟩ := exists_packBlock_eq h
    exact ⟨x, hunpack x s, (packBlock_eq x).symm⟩
  · exact give_map_error.2 ⟨rfl, unpackBlock_of_length_ne h⟩
  · rw [← packBlock_eq, hunpack]

end Sys2Proof.Machine

/-! ## The value codes (R69 to R71, R146 to R151) -/

namespace Sys2Proof.Machine

open Sys2Proof Sys2Proof.Safety

/-! ### The output divider (R69, R146, R147) -/

theorem encodeDbf_twoPow {c : Nat} (h : c < 5) : encodeDbf (BitVec.twoPow 32 c) = .ok (BitVec.ofNat 32 c) := by
  interval_cases c <;> rfl

theorem decodeDbf_ofNat {c : Nat} (h : c < 5) : decodeDbf (BitVec.ofNat 32 c) = .ok (BitVec.twoPow 32 c) := by
  interval_cases c <;> rfl

theorem encodeDbf_of_ne_twoPow {d : Word} (h : ∀ c < 5, d ≠ BitVec.twoPow 32 c) : encodeDbf d = badArgument .dbf := by
  have hne : ∀ c < 5, d.toNat ≠ 2 ^ c := fun c hc hd =>
    h c hc (BitVec.eq_of_toNat_eq (by rw [hd, BitVec.toNat_twoPow_of_lt (by omega)]))
  unfold encodeDbf
  split
  case h_1 hd => exact absurd hd (hne 0 (by decide))
  case h_2 hd => exact absurd hd (hne 1 (by decide))
  case h_3 hd => exact absurd hd (hne 2 (by decide))
  case h_4 hd => exact absurd hd (hne 3 (by decide))
  case h_5 hd => exact absurd hd (hne 4 (by decide))
  case h_6 => rfl

theorem decodeDbf_of_reserved {c : Word} (h5 : 5 ≤ c.toNat) (h7 : c.toNat ≤ 7) :
    decodeDbf c = .error (.reservedCode .dividerSelect c) := by
  unfold decodeDbf
  interval_cases c.toNat <;> rfl

theorem decodeDbf_of_le {c : Word} (h : 8 ≤ c.toNat) : decodeDbf c = badArgument .code := by
  unfold decodeDbf
  split
  case h_9 => rfl
  all_goals omega

/-! ### The RF level (R70, R148, R149) -/

theorem encodeRfLevel_eq {l : SWord} {c : Nat} (hc : c < 4) (h : l.toInt = 3 * (c : Int) - 4) :
    encodeRfLevel l = .ok (BitVec.ofNat 32 c) := by
  unfold encodeRfLevel
  interval_cases c <;> simp [h]

theorem decodeRfLevel_eq {l : SWord} {c : Nat} (hc : c < 4) (h : l.toInt = 3 * (c : Int) - 4) :
    decodeRfLevel (BitVec.ofNat 32 c) = .ok l := by
  have hl : l = BitVec.ofInt 32 (3 * (c : Int) - 4) := by rw [← h, BitVec.ofInt_toInt]
  subst hl
  interval_cases c <;> rfl

theorem encodeRfLevel_of_ne {l : SWord} (h : ∀ c : Nat, c < 4 → l.toInt ≠ 3 * (c : Int) - 4) :
    encodeRfLevel l = badArgument .rfLevel := by
  unfold encodeRfLevel
  rw [if_neg (show l.toInt ≠ -4 from h 0 (by decide)), if_neg (show l.toInt ≠ -1 from h 1 (by decide)),
    if_neg (show l.toInt ≠ 2 from h 2 (by decide)), if_neg (show l.toInt ≠ 5 from h 3 (by decide))]

theorem decodeRfLevel_of_le {c : Word} (h : 4 ≤ c.toNat) : decodeRfLevel c = badArgument .code := by
  unfold decodeRfLevel
  split
  case h_5 => rfl
  all_goals omega

/-! ### Low spur (R71, R150, R151) -/

theorem exec_lspenc (v : Bool) (s : State) : exec (.lspenc v) s = .next (s.respond (.ok (.word (encodeLowSpur v)))) := rfl

theorem encodeLowSpur_eq (v : Bool) : encodeLowSpur v = BitVec.ofNat 32 (3 * v.toNat) := by cases v <;> rfl

theorem decodeLowSpur_ofNat (v : Bool) : decodeLowSpur (BitVec.ofNat 32 (3 * v.toNat)) = .ok v := by cases v <;> rfl

theorem decodeLowSpur_of_reserved {r : Word} (h1 : 1 ≤ r.toNat) (h2 : r.toNat ≤ 2) :
    decodeLowSpur r = .error (.reservedCode .lowSpur r) := by
  unfold decodeLowSpur
  interval_cases r.toNat <;> rfl

theorem decodeLowSpur_of_le {r : Word} (h : 4 ≤ r.toNat) : decodeLowSpur r = badArgument .code := by
  unfold decodeLowSpur
  split
  case h_5 => rfl
  all_goals omega

/-! ### Every operand of the six maps -/

/-- Settles O20: each map on its codes, its reserved codes and every other operand. -/
theorem valueCodesMapBothWays : Obligations.ValueCodesMapBothWays := by
  refine fun s => ⟨fun c hc => ⟨?_, ?_⟩, fun d h => ?_, fun c h5 h7 => ?_, fun c h => ?_, fun c hc l h => ⟨?_, ?_⟩,
    fun l h => ?_, fun c h => ?_, fun v => ⟨?_, ?_⟩, fun r h1 h2 => ?_, fun r h => ?_⟩
  · exact give_map_ok.2 ⟨rfl, _, encodeDbf_twoPow hc, rfl⟩
  · exact give_map_ok.2 ⟨rfl, _, decodeDbf_ofNat hc, rfl⟩
  · exact give_map_error.2 ⟨rfl, encodeDbf_of_ne_twoPow h⟩
  · exact give_map_error.2 ⟨rfl, decodeDbf_of_reserved h5 h7⟩
  · exact give_map_error.2 ⟨rfl, decodeDbf_of_le h⟩
  · exact give_map_ok.2 ⟨rfl, _, encodeRfLevel_eq hc h, rfl⟩
  · exact give_map_ok.2 ⟨rfl, _, decodeRfLevel_eq hc h, rfl⟩
  · exact give_map_error.2 ⟨rfl, encodeRfLevel_of_ne h⟩
  · exact give_map_error.2 ⟨rfl, decodeRfLevel_of_le h⟩
  · rw [exec_lspenc, encodeLowSpur_eq]
  · exact give_map_ok.2 ⟨rfl, _, decodeLowSpur_ofNat v, rfl⟩
  · exact give_map_error.2 ⟨rfl, decodeLowSpur_of_reserved h1 h2⟩
  · exact give_map_error.2 ⟨rfl, decodeLowSpur_of_le h⟩

end Sys2Proof.Machine

/-! ## The two exchanges, every case (R171, R172) -/

namespace Sys2Proof.Machine

open Sys2Proof Sys2Proof.Safety

/-! ### XWRITE -/

theorem exec_xwrite (a : Byte) (p : Bytes) (s : State) :
    exec (.xwrite a p) s = answer (asValue (fun _ => .none) (xwrite a p) s) := rfl

/-- R171, R53: no byte came back, and whether the frame took effect is the draw's. -/
theorem xwrite_unanswered {s : State} {a : Byte} {p : Bytes} (h : WriteAnswered s a p []) :
    xwrite a p s = (.error (.transport .rxRead 1 0), { s.transmit (frameOf a p) with
      device := if (nextDraw s).applied then (storeAt s.device a p).getD ((nextDraw s).drift.getD s.device) else s.device }) :=
  xwrite_answered s a p [] h

/-- R171 with ACK, also for a frame that writes no item. -/
theorem xwrite_of_ack {s : State} {a : Byte} {p : Bytes} (h : WriteAnswered s a p [0x06]) :
    xwrite a p s = (.ok (), { s.transmit (frameOf a p) with
      device := (nextDraw s).drift.getD ((storeAt s.device a p).getD s.device) }) := by
  have hack : (0x06 : Byte) = Config.ack := rfl
  rw [xwrite_answered s a p _ h, checkAck, deviceAfterWrite, if_pos hack, if_pos hack]

/-- R171 with ACK, as the host sees it. -/
theorem exec_xwrite_of_ack {s : State} {a : Byte} {p : Bytes} (h : WriteAnswered s a p [0x06]) :
    ∃ t, exec (.xwrite a p) s = .next t ∧
      Exchanged s t (frameOf a p) (.ok .none) ((nextDraw s).drift.getD ((storeAt s.device a p).getD s.device)) :=
  ⟨_, answer_asValue_ok.2 ⟨(), xwrite_of_ack h, rfl⟩, exchanged_of ..⟩

/-- Settles O29: a short write, and the three things RxRead(1) can return after a whole one. -/
theorem xwriteOutcomes : Obligations.XwriteOutcomes := by
  refine fun a p s => ⟨fun h => ?_, fun h => ?_, fun b hb h => ?_, exec_xwrite_of_ack⟩
  · exact ⟨_, answer_asValue_error.2 (xwrite_short s a p h.ne), exchanged_transmit ..⟩
  · exact ⟨_, answer_asValue_error.2 (xwrite_unanswered h), exchanged_of ..⟩
  · exact ⟨_, answer_asValue_error.2 (xwrite_nacked h hb), exchanged_transmit ..⟩

/-! ### XREAD -/

theorem exec_xread (a : Byte) (n : Nat) (s : State) : exec (.xread a n) s = answer (asValue .bytes (xread a n) s) := rfl

theorem verifyChecksum_iff_sumByte {p : Bytes} {c : Byte} : verifyChecksum p c = true ↔ c = sumByte p := by
  rw [verifyChecksum_iff, checksum_eq, eq_comm]

/-- R172: a whole response, its received byte against the payload sum. -/
theorem xread_whole {s : State} {a : Byte} {p : Bytes} {c : Byte} (h : ReadAnswered s a p.length (p ++ [c])) :
    xread a p.length s = (if c = sumByte p then .ok p else .error (.checksum (sumByte p) c),
      { s.transmit [a] with device := deviceAtRead s }) := by
  rw [xread_answered s a _ _ h, checkResponse_append, checksum_eq]
  simp only [verifyChecksum_iff_sumByte]

/-- Settles O30: a short write, a short response, and a whole response with a right or a wrong checksum. -/
theorem xreadOutcomes : Obligations.XreadOutcomes := by
  refine fun a n s => ⟨fun h => ?_, fun rx hrx h => ?_, fun p c hp h => ?_⟩
  · have hshort := xread_short s a n (by rw [h]; decide)
    rw [h] at hshort
    exact ⟨_, answer_asValue_error.2 hshort, exchanged_transmit ..⟩
  · have hread := xread_answered s a n rx h
    rw [checkResponse_of_short hrx] at hread
    exact ⟨_, answer_asValue_error.2 hread, exchanged_of ..⟩
  · subst hp
    have hread := xread_whole h
    split at hread
    case isTrue hc => exact ⟨_, answer_asValue_ok.2 ⟨p, hread, rfl⟩, if_pos hc ▸ exchanged_of ..⟩
    case isFalse hc => exact ⟨_, answer_asValue_error.2 hread, if_neg hc ▸ exchanged_of ..⟩

end Sys2Proof.Machine

/-! ## The addresses of MKADDR (R66, R170) -/

namespace Sys2Proof.Machine

open Sys2Proof Sys2Proof.Safety

theorem exec_mkaddr (c : Command) (id : Option ChannelId) (s : State) :
    exec (.mkaddr c id) s = .next (s.respond (responseOf ((makeAddress c id).map .byte))) := rfl

/-- R65: an id matters to a per-channel command only. -/
theorem addressOf_eq_ite (c : Command) (id : ChannelId) :
    addressOf c id = if perChannel c then channelAddress (baseAddress c) id else baseAddress c := by
  split
  case isTrue hper => exact addressOf_eq c id hper
  case isFalse hper => exact addressOf_shared c id (eq_false_of_ne_true hper)

/-- Settles O28: the table's rows are `baseAddress` and `perChannel`, and without an id only a shared command has an address. -/
theorem mkaddrFollowsTheCommandTable : Obligations.MkaddrFollowsTheCommandTable := by
  intro c base per n s hrow
  obtain ⟨rfl, rfl, -⟩ := mem_commandTable hrow
  refine ⟨fun id => ?_, ?_⟩
  · rw [exec_mkaddr, makeAddress, addressOf_eq_ite]; rfl
  · rw [exec_mkaddr, makeAddress]
    split <;> rfl

end Sys2Proof.Machine

/-! ## The six write commands (R175, R177, R179, R181, R183, R184) -/

namespace Sys2Proof.Machine

open Sys2Proof Sys2Proof.Safety

/-! ### Each is the write exchange of its address and payload -/

theorem writeRegs_eq (id : ChannelId) (x : RegBlock) :
    writeRegs id x = xwrite (channelAddress 0x00 id) (blockBytes x) := by
  rw [writeRegs, addressOf_eq _ _ rfl, packBlock_eq]
  rfl

theorem writeLabel_of_length (id : ChannelId) {l : Bytes} (h : l.length = 16) :
    writeLabel id l = xwrite (channelAddress 0x02 id) l := by
  rw [writeLabel, if_neg (not_not.2 h), addressOf_eq _ _ rfl]
  rfl

theorem writeLabel_of_length_ne (id : ChannelId) {l : Bytes} (h : l.length ≠ 16) :
    writeLabel id l = pureStep (badArgument .length) := if_pos h

theorem writeVco_eq (id : ChannelId) (v : VcoRange) : writeVco id v = xwrite (channelAddress 0x03 id) (vcoBytes v) := by
  rw [writeVco, addressOf_eq _ _ rfl, packVco_eq]
  rfl

theorem writeRef_eq (hz : Word) : writeRef hz = xwrite 0x01 (bigEndian 4 hz.toNat) := by
  rw [writeRef, packU32_eq]
  rfl

theorem writeRefsel_eq (v : Bool) : writeRefsel v = xwrite 0x06 [BitVec.ofNat 8 v.toNat] := by
  rw [writeRefsel, packBool_eq]
  rfl

theorem exec_setRegs (id : ChannelId) (x : RegBlock) (s : State) :
    exec (.setRegs id x) s = exec (.xwrite (channelAddress 0x00 id) (blockBytes x)) s := by
  rw [exec_xwrite, ← writeRegs_eq]
  rfl

theorem exec_setLabel_of_length (id : ChannelId) {l : Bytes} (h : l.length = 16) (s : State) :
    exec (.setLabel id l) s = exec (.xwrite (channelAddress 0x02 id) l) s := by
  rw [exec_xwrite, ← writeLabel_of_length id h]
  rfl

theorem exec_setVco (id : ChannelId) (low high : Half) (s : State) :
    exec (.setVco id low high) s = exec (.xwrite (channelAddress 0x03 id) (vcoBytes ⟨low, high⟩)) s := by
  rw [exec_xwrite, ← writeVco_eq]
  rfl

theorem exec_setRef (hz : Word) (s : State) : exec (.setRef hz) s = exec (.xwrite 0x01 (bigEndian 4 hz.toNat)) s := by
  rw [exec_xwrite, ← writeRef_eq]
  rfl

theorem exec_setRefsel (v : Bool) (s : State) :
    exec (.setRefsel v) s = exec (.xwrite 0x06 [BitVec.ofNat 8 v.toNat]) s := by
  rw [exec_xwrite, ← writeRefsel_eq]
  rfl

theorem exec_flash (s : State) : exec .flash s = exec (.xwrite 0x40 []) s := rfl

/-- Settles O31: each command's exchange, and SET_LABEL by whether its payload has 16 bytes. -/
theorem writeCommandsAreWriteExchanges : Obligations.WriteCommandsAreWriteExchanges := by
  refine fun id s => ⟨fun x => exec_setRegs id x s, fun l => ?_, fun lo hi => exec_setVco id lo hi s,
    fun hz => exec_setRef hz s, fun v => exec_setRefsel v s, exec_flash s⟩
  split
  case isTrue h => exact exec_setLabel_of_length id h s
  case isFalse h => exact answer_asValue_error.2 (by rw [writeLabel_of_length_ne id h, pureStep_apply, badArgument])

/-! ### An acknowledged write -/

/-- R171 with ACK for a frame that writes an item. -/
theorem exec_xwrite_stored {s : State} {a : Byte} {p : Bytes} {dev : Device} (hd : storeAt s.device a p = some dev)
    (h : WriteAnswered s a p [0x06]) : ∃ t, exec (.xwrite a p) s = .next t ∧
      Exchanged s t (frameOf a p) (.ok .none) ((nextDraw s).drift.getD dev) := by
  simpa [hd] using exec_xwrite_of_ack h

/-- R67: SET_REFSEL writes bit 0 of the status byte and leaves the other bits. -/
theorem status_refsel_getLsbD (st : Byte) (v : Bool) {i : Nat} (hi : i < 8) :
    (if v then st ||| 0x01 else st &&& 0xFE).getLsbD i = if i = 0 then v else st.getLsbD i := by
  interval_cases i <;> cases v <;> simp

/-- Settles O32: each command is an XWRITE, and its frame writes its item. -/
theorem acknowledgedWritesComplete : Obligations.AcknowledgedWritesComplete := by
  refine ⟨fun id x s h => ?_, fun id l s hl h => ?_, fun id lo hi s h => ?_, fun hz s h => ?_, fun v s h => ?_, fun s h => ?_⟩
  · rw [exec_setRegs]
    exact exec_xwrite_stored (storeAt_regs ..) h
  · obtain ⟨t, ht, hex⟩ := exec_xwrite_stored (storeAt_label _ id l hl) h
    exact ⟨t, _, (exec_setLabel_of_length id hl s).trans ht, hex, congrArg (·.label.toList) (setBank_bank ..), by rw [setBank_bank]⟩
  · rw [exec_setVco]
    exact exec_xwrite_stored (storeAt_vco ..) h
  · rw [exec_setRef]
    exact exec_xwrite_stored (storeAt_ref ..) h
  · obtain ⟨t, ht, hex⟩ := exec_xwrite_stored (storeAt_refsel _ v) h
    exact ⟨t, _, (exec_setRefsel v s).trans ht, hex, rfl, fun i hi => status_refsel_getLsbD _ v hi⟩
  · exact exec_xwrite_stored (storeAt_flash _) h

end Sys2Proof.Machine

/-! ## The five read commands (R174, R176, R178, R180, R182) -/

namespace Sys2Proof.Machine

open Sys2Proof Sys2Proof.Safety

/-! ### Each is the read exchange of its address and length, and the decoding of the payload -/

theorem readRegs_eq (id : ChannelId) :
    readRegs id = andThen (xread (channelAddress 0x80 id) 24) fun b => pureStep (unpackBlock b) := by
  rw [readRegs, addressOf_eq _ _ rfl]
  rfl

theorem readLabel_eq (id : ChannelId) : readLabel id = xread (channelAddress 0x82 id) 16 := by
  rw [readLabel, addressOf_eq _ _ rfl]
  rfl

theorem readVco_eq (id : ChannelId) :
    readVco id = andThen (xread (channelAddress 0x83 id) 4) fun b => pureStep (unpackVco b) := by
  rw [readVco, addressOf_eq _ _ rfl]
  rfl

theorem readRef_eq : readRef = andThen (xread 0x81 4) fun b => pureStep (unpackU32 b) := rfl

theorem readStatus_eq (id : ChannelId) :
    readStatus id = andThen (xread (channelAddress 0x86 id) 1) fun b => pureStep (.ok (b.headD 0)) := by
  rw [readStatus, addressOf_eq _ _ rfl]
  rfl

theorem exec_getRegs (id : ChannelId) (s : State) : exec (.getRegs id) s = answer (asValue .block (readRegs id) s) := rfl

theorem exec_getLabel (id : ChannelId) (s : State) : exec (.getLabel id) s = answer (asValue .bytes (readLabel id) s) := rfl

theorem exec_getVco (id : ChannelId) (s : State) : exec (.getVco id) s = answer (asValue .vco (readVco id) s) := rfl

theorem exec_getRef (s : State) : exec .getRef s = answer (asValue .word readRef s) := rfl

theorem exec_getStatus (id : ChannelId) (s : State) :
    exec (.getStatus id) s = answer (asValue .byte (readStatus id) s) := rfl

/-! ### A valid response, and an error -/

/-- A read whose response is the payload of `v`, as the host sees it. -/
theorem read_replied {α : Type} {f : α → Value} {decode : Bytes → Except Error α} {s : State} {a : Byte} {n : Nat} {p : Bytes}
    {v : α} (hp : p.length = n) (hv : decode p = .ok v) (h : ReadAnswered s a n (replyOf p)) :
    ∃ t, answer (asValue f (andThen (xread a n) fun b => pureStep (decode b)) s) = .next t ∧
      Exchanged s t [a] (.ok (f v)) (deviceAtRead s) := by
  have hread : andThen (xread a n) (fun b => pureStep (decode b)) s =
      (.ok v, { s.transmit [a] with device := deviceAtRead s }) := by
    rw [andThen_ok (xread_replied s a n p hp h), hv, pureStep_apply]
  exact ⟨_, answer_asValue_ok.2 ⟨v, hread, rfl⟩, exchanged_of ..⟩

/-- The one response an answered action gives says how it ended. -/
theorem error_of_answer {α : Type} {f : α → Value} {m : Action α} {s t : State} {e : Error} {before : List Response}
    (h : answer (asValue f m s) = .next t) (ht : t.responses = before ++ [.error e]) :
    ∃ u, m s = (.error e, u) ∧ t = u.respond (.error e) := by
  rw [asValue_eq, answer_eq_next, Host.Outcome.next.injEq] at h
  subst h
  rw [respond_responses, List.append_singleton_inj] at ht
  rcases hm : m s with ⟨e' | a, u⟩
  · rw [hm] at ht
    cases ht.2
    exact ⟨u, rfl, rfl⟩
  · rw [hm] at ht
    nomatch ht.2

/-- A read whose exchange ends in an error ends in that error and that state: nothing is decoded. -/
theorem read_of_xread_error {α : Type} {f : α → Value} {decode : Bytes → Except Error α} {s t : State} {a : Byte} {n : Nat}
    {e : Error} (ht : t.responses = s.responses ++ [.error e]) (h : exec (.xread a n) s = .next t) :
    answer (asValue f (andThen (xread a n) fun b => pureStep (decode b)) s) = .next t := by
  obtain ⟨u, hu, rfl⟩ := error_of_answer h ht
  exact answer_asValue_error.2 (andThen_error hu)

theorem sumByte_singleton (b : Byte) : sumByte [b] = b := by simp [sumByte, byteSum]

/-- Settles O33: each command is the decoding of a read exchange. -/
theorem readCommandsAnswerValidResponses : Obligations.ReadCommandsAnswerValidResponses := by
  refine ⟨fun id x s h => ?_, fun id l s hl h => ?_, fun id v s h => ?_, fun hz s h => ?_, fun id st s h => ?_,
    fun s t e id ht => ⟨fun h => ?_, fun h => ?_, fun h => ?_, fun h => ?_, fun h => ?_⟩⟩
  · rw [exec_getRegs, readRegs_eq]
    rw [← packBlock_eq] at h
    exact read_replied (packBlock_length x) (unpackBlock_packBlock x) h
  · rw [exec_getLabel, readLabel_eq]
    exact ⟨_, answer_asValue_ok.2 ⟨l, xread_replied s _ 16 l hl h, rfl⟩, exchanged_of ..⟩
  · rw [exec_getVco, readVco_eq]
    rw [← packVco_eq] at h
    exact read_replied (packVco_length v) (unpackVco_packVco v) h
  · rw [exec_getRef, readRef_eq]
    rw [← packU32_eq] at h
    exact read_replied (packU32_length hz) (unpackU32_packU32 hz) h
  · rw [exec_getStatus, readStatus_eq]
    exact read_replied (p := [st]) rfl rfl (by rwa [replyOf, sumByte_singleton])
  · rw [exec_getRegs, readRegs_eq]
    exact read_of_xread_error ht h
  · rwa [exec_getLabel, readLabel_eq, ← exec_xread]
  · rw [exec_getVco, readVco_eq]
    exact read_of_xread_error ht h
  · rw [exec_getRef, readRef_eq]
    exact read_of_xread_error ht h
  · rw [exec_getStatus, readStatus_eq]
    exact read_of_xread_error ht h

end Sys2Proof.Machine

/-! ## A read-modify-write that fails before its write (R186, R232, R237, R260) -/

namespace Sys2Proof.Machine

open Sys2Proof Sys2Proof.Safety

/-! ### A failed read ends the function in its own state -/

theorem readVco_of_exec_error {s t : State} {id : ChannelId} {e : Error}
    (h : exec (.getVco id) s = .next (t.respond (.error e))) : readVco id s = (.error e, t) :=
  answer_asValue_error.1 h

theorem readRef_of_exec_error {s t : State} {e : Error} (h : exec .getRef s = .next (t.respond (.error e))) :
    readRef s = (.error e, t) :=
  answer_asValue_error.1 h

theorem readRegs_of_exec_error {s t : State} {id : ChannelId} {e : Error}
    (h : exec (.getRegs id) s = .next (t.respond (.error e))) : readRegs id s = (.error e, t) :=
  answer_asValue_error.1 h

theorem getOptionsOf_of_exec_error {s t : State} {x : RegBlock} {e : Error}
    (h : exec (.getopt x) s = .next (t.respond (.error e))) : getOptionsOf x = .error e :=
  (give_map_error.1 h).2

theorem readModifyWrite_of_read_error {s t : State} {id : ChannelId} {f : RegBlock → Except Error RegBlock} {e : Error}
    (h : readRegs id s = (.error e, t)) : readModifyWrite id f s = (.error e, t) :=
  andThen_error h

/-- R219: at one of the four levels `setRfLevel` is the read-modify-write of SETRFL. -/
theorem callSetRfLevel_of_legal (id : ChannelId) {l : SWord}
    (hl : l.toInt = -4 ∨ l.toInt = -1 ∨ l.toInt = 2 ∨ l.toInt = 5) :
    callSetRfLevel id l = readModifyWrite id fun x => setLevel x l := by
  have hcode : ∃ code, encodeRfLevel l = .ok code := by
    obtain h | h | h | h := hl
    · exact ⟨_, encodeRfLevel_eq (c := 0) (by decide) h⟩
    · exact ⟨_, encodeRfLevel_eq (c := 1) (by decide) h⟩
    · exact ⟨_, encodeRfLevel_eq (c := 2) (by decide) h⟩
    · exact ⟨_, encodeRfLevel_eq (c := 3) (by decide) h⟩
  obtain ⟨code, hcode⟩ := hcode
  rw [callSetRfLevel, hcode]
  rfl

section
variable {s t s₁ : State} {id : ChannelId} {e : Error} {sp : Option Rat} {v : VcoRange} {hz : Word} {x : RegBlock}

theorem callSetOptions_of_read_error {o : Options} (hr : o.r.toNat < 1024) (h : readRegs id s = (.error e, t)) :
    callSetOptions id o s = (.error e, t) := by
  rw [callSetOptions_of_lt id hr, readModifyWrite_of_read_error h]

theorem callSetRfLevel_of_read_error {l : SWord} (hl : l.toInt = -4 ∨ l.toInt = -1 ∨ l.toInt = 2 ∨ l.toInt = 5)
    (h : readRegs id s = (.error e, t)) : callSetRfLevel id l s = (.error e, t) := by
  rw [callSetRfLevel_of_legal id hl, readModifyWrite_of_read_error h]

theorem callEpdf_of_ref_error (h : readRef s = (.error e, t)) : callEpdf id s = (.error e, t) := andThen_error h

theorem callEpdf_of_regs_error (h : readRef s = (.ok hz, s₁)) (h' : readRegs id s₁ = (.error e, t)) :
    callEpdf id s = (.error e, t) := by
  rw [callEpdf, andThen_ok h, andThen_error h']

theorem callEpdf_of_options_error (h : readRef s = (.ok hz, s₁)) (h' : readRegs id s₁ = (.ok x, t))
    (h'' : getOptionsOf x = .error e) : callEpdf id s = (.error e, t) := by
  rw [callEpdf, andThen_ok h, andThen_ok h', h'', andThen_pure_error]

/-- R235: the default spacing is legal, and so is a positive one. -/
theorem not_spacing_nonpos (hs : 0 < sp.getD 10) : ¬ sp.getD Config.defaultSpacing ≤ 0 := not_le.2 hs

theorem callSetFrequency_of_vco_error (f : Rat) (hs : 0 < sp.getD 10) (h : readVco id s = (.error e, t)) :
    callSetFrequency id f sp s = (.error e, t) := by
  simp only [callSetFrequency, if_neg (not_spacing_nonpos hs)]
  exact andThen_error h

theorem callSetFrequency_of_epdf_error (f : Rat) (hs : 0 < sp.getD 10) (h : readVco id s = (.ok v, s₁))
    (h' : callEpdf id s₁ = (.error e, t)) : callSetFrequency id f sp s = (.error e, t) := by
  simp only [callSetFrequency, if_neg (not_spacing_nonpos hs)]
  rw [andThen_ok h, andThen_error h']

/-- R234: the arithmetic of a frequency that is not negative and an EPDF that is not 0 refuses nothing. -/
theorem computeSetting_of_nonneg (halfUp : Bool) {f epdf : Rat} (spacing : Rat) (dbf : Nat) (hepdf : epdf ≠ 0) (hf : 0 ≤ f) :
    ∃ raw, computeSetting halfUp f spacing epdf dbf = .ok raw :=
  ⟨_, (if_neg hepdf).trans (if_neg (not_lt.2 (mul_nonneg hf (Nat.cast_nonneg dbf))))⟩

theorem callSetFrequency_of_write_read_error {o : Options} {f : Rat} (hs : 0 < sp.getD 10)
    (h : ReadForSetFrequency s id v hz o s₁) (hepdf : effectiveFrequency hz o ≠ 0) (hf : 0 ≤ f)
    (h' : readRegs id s₁ = (.error e, t)) : callSetFrequency id f sp s = (.error e, t) := by
  obtain ⟨raw, hraw⟩ := computeSetting_of_nonneg s.roundHalfUp (sp.getD 10) (chooseDivider f v.low) hepdf hf
  rw [callSetFrequency_of_reads f hs h, hraw, andThen_pure_ok, readModifyWrite_of_read_error h']

end

/-! ### An error that no write exchange raises came before the write -/

/-- The byte strings of R62. -/
def IsRequestByte (f : Bytes) : Prop := f.length = 1

/-- An error in `m` that is neither a TransportError nor a ProtocolError, as a write exchange's would be, came when only request
bytes had been sent. -/
def RefusesBeforeWriting {α : Type} (m : Action α) : Prop :=
  ∀ s t e, m s = (.error e, t) → errorCode e ≠ 1 → errorCode e ≠ 3 → SentOnly IsRequestByte s t

section
variable {α β : Type} {m : Action α}

theorem Sends.refusesBeforeWriting (hm : Sends IsRequestByte m) : RefusesBeforeWriting m := by
  intro s t e h _ _
  have hs := hm s
  rwa [h] at hs

theorem RefusesBeforeWriting.after {f : α → Action β} (hm : Sends IsRequestByte m) (hf : ∀ a, RefusesBeforeWriting (f a)) :
    RefusesBeforeWriting (andThen m f) := by
  intro s t e he h1 h3
  rcases andThen_cases m f s with ⟨a, -, h⟩ | ⟨_, -, h⟩
  · exact (hm s).trans (hf a _ t e (h.symm.trans he) h1 h3)
  · obtain ⟨-, rfl⟩ := Prod.ext_iff.1 (h.symm.trans he)
    exact hm s

/-- R95: what an acknowledgement read with RxRead(1) can fail with. -/
theorem errorCode_of_checkAck {rx : Bytes} {e : Error} (hlen : rx.length ≤ 1) (h : checkAck rx = .error e) :
    errorCode e = 1 ∨ errorCode e = 3 := by
  match rx, hlen with
  | [], _ => cases h; exact .inl rfl
  | [b], _ =>
    rw [checkAck] at h
    split at h
    · nomatch h
    · cases h; exact .inr rfl

theorem received_length_le (d : Draw) (reply : Bytes) (n : Nat) : (received d reply n).length ≤ n := by
  unfold received
  split <;> exact List.length_take_le _ _

/-- R171: the errors of a write exchange. -/
theorem errorCode_of_xwrite {s t : State} {a : Byte} {p : Bytes} {e : Error} (h : xwrite a p s = (.error e, t)) :
    errorCode e = 1 ∨ errorCode e = 3 := by
  by_cases hn : accepted (nextDraw s) (p.length + 2) = p.length + 2
  · rw [xwrite_answered s a p _ ⟨hn, rfl⟩] at h
    exact errorCode_of_checkAck (received_length_le _ _ 1) (Prod.ext_iff.1 h).1
  · rw [xwrite_short s a p hn] at h
    cases h
    exact .inl rfl

theorem xwrite_refusesBeforeWriting (a : Byte) (p : Bytes) : RefusesBeforeWriting (xwrite a p) :=
  fun _ _ _ he h1 h3 => absurd (errorCode_of_xwrite he) (not_or.2 ⟨h1, h3⟩)

theorem xread_sends_requestByte (a : Byte) (n : Nat) : Sends IsRequestByte (xread a n) := xread_sends a n rfl

theorem callEpdf_sends_requestBytes (id : ChannelId) : Sends IsRequestByte (callEpdf id) :=
  (xread_sends_requestByte _ 4).decode.bind fun _ =>
    (xread_sends_requestByte _ 24).decode.bind fun _ => (pureStep_sends _).decode

theorem readModifyWrite_refusesBeforeWriting (id : ChannelId) (f : RegBlock → Except Error RegBlock) :
    RefusesBeforeWriting (readModifyWrite id f) :=
  .after (xread_sends_requestByte _ 24).decode fun _ => .after (pureStep_sends _) fun _ => xwrite_refusesBeforeWriting _ _

theorem callSetFrequency_refusesBeforeWriting (id : ChannelId) (f : Rat) (sp : Option Rat) :
    RefusesBeforeWriting (callSetFrequency id f sp) := by
  unfold callSetFrequency
  dsimp only
  split
  · exact (pureStep_sends _).refusesBeforeWriting
  · exact .after (xread_sends_requestByte _ 4).decode fun _ => .after (callEpdf_sends_requestBytes id) fun _ s =>
      RefusesBeforeWriting.after (pureStep_sends _) (fun _ => readModifyWrite_refusesBeforeWriting id _) s

end

/-- Settles O34: each failure ends the function where it stands, and only the last exchange is a write. -/
theorem failedReadWritesNothing : Obligations.FailedReadWritesNothing := by
  refine ⟨fun s t e id o l h ht => ?_, fun s s₁ s₂ s₃ t e id f sp v hz x o hs => ⟨fun h => ?_, fun h h' => ?_,
    fun h h' h'' => ?_, fun h h' h'' ho => ?_, fun h hepdf hf h' => ?_⟩, fun s t e id f sp h ht h1 h3 => ?_⟩
  · obtain ⟨u, hread, rfl⟩ := error_of_answer h ht
    obtain ⟨dev, hu⟩ := readRegs_state s id
    rw [hread] at hu
    exact ⟨fun hr => answer_asValue_error.2 (callSetOptions_of_read_error hr hread),
      fun hl => answer_asValue_error.2 (callSetRfLevel_of_read_error hl hread), by simp [show u = _ from hu]⟩
  · exact answer_asValue_error.2 (callSetFrequency_of_vco_error f hs (readVco_of_exec_error h))
  · exact answer_asValue_error.2 (callSetFrequency_of_epdf_error f hs (readVco_of_exec h)
      (callEpdf_of_ref_error (readRef_of_exec_error h')))
  · exact answer_asValue_error.2 (callSetFrequency_of_epdf_error f hs (readVco_of_exec h)
      (callEpdf_of_regs_error (readRef_of_exec h') (readRegs_of_exec_error h'')))
  · exact answer_asValue_error.2 (callSetFrequency_of_epdf_error f hs (readVco_of_exec h)
      (callEpdf_of_options_error (readRef_of_exec h') (readRegs_of_exec h'') (getOptionsOf_of_exec_error ho)))
  · exact answer_asValue_error.2 (callSetFrequency_of_write_read_error hs h hepdf hf (readRegs_of_exec_error h'))
  · obtain ⟨u, hu, rfl⟩ := error_of_answer h ht
    exact callSetFrequency_refusesBeforeWriting id f sp s u e hu h1 h3

end Sys2Proof.Machine

/-! ## The order of what is sent: a first part of the expansion (R185, R188) -/

namespace Sys2Proof.Machine

open Sys2Proof Sys2Proof.Safety

/-- An action that gives TxWrite a first part of the byte strings `E x`, for a block `x` of the run, and all of them where it
completes. -/
def SendsInOrder {α : Type} (E : RegBlock → List Bytes) (m : Action α) : Prop :=
  ∀ s, ∃ x frames, (m s).2.sent = s.sent ++ frames ∧ frames <+: E x ∧ ∀ a, (m s).1 = .ok a → frames = E x

section
variable {α β : Type} {E : RegBlock → List Bytes} {F : List Bytes} {m : Action α}

theorem pureStep_error_sendsInOrder (e : Error) : SendsInOrder E (pureStep (.error e : Except Error α)) :=
  fun _ => ⟨default, [], by simp, List.nil_prefix, nofun⟩

theorem pureStep_sendsInOrder (r : Except Error α) : SendsInOrder (fun _ => []) (pureStep r) :=
  fun _ => ⟨default, [], by simp, List.nil_prefix, fun _ _ => rfl⟩

/-- R257, R258: what the second step sends comes after all that the first sends; where the first fails, nothing more is sent. -/
theorem SendsInOrder.bind {f : α → Action β} (hm : SendsInOrder (fun _ => F) m) (hf : ∀ a, SendsInOrder E (f a)) :
    SendsInOrder (fun x => F ++ E x) (andThen m f) := by
  intro s
  obtain ⟨x, sent, hs, hpre, hall⟩ := hm s
  rcases andThen_cases m f s with ⟨a, ha, h⟩ | ⟨e, -, h⟩
  · obtain ⟨x', more, hs', hpre', hall'⟩ := hf a (m s).2
    cases hall a ha
    rw [h]
    exact ⟨x', F ++ more, by rw [hs', hs, List.append_assoc], (List.prefix_append_right_inj F).2 hpre',
      fun b hb => by rw [hall' b hb]⟩
  · rw [h]
    exact ⟨x, sent, hs, hpre.trans (List.prefix_append F _), nofun⟩

theorem SendsInOrder.decode {f : α → Except Error β} (hm : SendsInOrder E m) :
    SendsInOrder E (andThen m fun a => pureStep (f a)) := by
  intro s
  obtain ⟨x, frames, hs, hpre, hall⟩ := hm s
  refine ⟨x, frames, by rw [andThen_pureStep_state, hs], hpre, fun b hb => ?_⟩
  rcases andThen_cases m (fun a => pureStep (f a)) s with ⟨a, ha, -⟩ | ⟨e, -, h⟩
  · exact hall a ha
  · rw [h] at hb
    nomatch hb

theorem SendsInOrder.asValue {f : α → Value} (hm : SendsInOrder E m) : SendsInOrder E (asValue f m) := hm.decode

theorem xread_sendsInOrder (a : Byte) (n : Nat) : SendsInOrder (fun _ => [[a]]) (xread a n) := by
  intro s
  obtain ⟨dev, hs⟩ := xread_state s a n
  exact ⟨default, [[a]], by rw [hs]; exact transmit_sent s _, List.prefix_rfl, fun _ _ => rfl⟩

/-- A write exchange sends its frame, which may be the frame of some block. -/
theorem xwrite_sendsInOrder {a : Byte} {p : Bytes} (x : RegBlock) (h : E x = [frameOf a p]) : SendsInOrder E (xwrite a p) := by
  intro s
  obtain ⟨dev, hs⟩ := xwrite_state s a p
  exact ⟨x, [frameOf a p], by rw [hs]; exact transmit_sent s _, h ▸ List.prefix_rfl, fun _ _ => h.symm⟩

/-- A response is no byte string sent. -/
theorem SendsInOrder.of_answer {m : Action Value} {s t : State} (hm : SendsInOrder E m) (h : answer (m s) = .next t) :
    ∃ x frames, t.sent = s.sent ++ frames ∧ frames <+: E x := by
  rw [answer_eq_next] at h
  cases h
  obtain ⟨x, frames, hs, hpre, -⟩ := hm s
  exact ⟨x, frames, hs, hpre⟩

end

/-! ### The wire commands -/

theorem readRegs_sendsInOrder (id : ChannelId) : SendsInOrder (fun _ => [[channelAddress 0x80 id]]) (readRegs id) :=
  readRegs_eq id ▸ (xread_sendsInOrder _ 24).decode

theorem readLabel_sendsInOrder (id : ChannelId) : SendsInOrder (fun _ => [[channelAddress 0x82 id]]) (readLabel id) :=
  readLabel_eq id ▸ xread_sendsInOrder _ 16

theorem readVco_sendsInOrder (id : ChannelId) : SendsInOrder (fun _ => [[channelAddress 0x83 id]]) (readVco id) :=
  readVco_eq id ▸ (xread_sendsInOrder _ 4).decode

theorem readRef_sendsInOrder : SendsInOrder (fun _ => [[0x81]]) readRef := (xread_sendsInOrder _ 4).decode

theorem readStatus_sendsInOrder (id : ChannelId) : SendsInOrder (fun _ => [[channelAddress 0x86 id]]) (readStatus id) :=
  readStatus_eq id ▸ (xread_sendsInOrder _ 1).decode

theorem writeRegs_sendsInOrder (id : ChannelId) (x : RegBlock) :
    SendsInOrder (fun x => [frameOf (channelAddress 0x00 id) (blockBytes x)]) (writeRegs id x) :=
  writeRegs_eq id x ▸ xwrite_sendsInOrder x rfl

theorem writeLabel_sendsInOrder (id : ChannelId) (l : Bytes) :
    SendsInOrder (fun _ => [frameOf (channelAddress 0x02 id) l]) (writeLabel id l) := by
  by_cases h : l.length = 16
  · rw [writeLabel_of_length id h]
    exact xwrite_sendsInOrder default rfl
  · rw [writeLabel_of_length_ne id h]
    exact pureStep_error_sendsInOrder _

theorem writeVco_sendsInOrder (id : ChannelId) (v : VcoRange) :
    SendsInOrder (fun _ => [frameOf (channelAddress 0x03 id) (vcoBytes v)]) (writeVco id v) :=
  writeVco_eq id v ▸ xwrite_sendsInOrder default rfl

theorem writeRef_sendsInOrder (hz : Word) :
    SendsInOrder (fun _ => [frameOf 0x01 (bigEndian 4 hz.toNat)]) (writeRef hz) :=
  writeRef_eq hz ▸ xwrite_sendsInOrder default rfl

theorem writeRefsel_sendsInOrder (v : Bool) :
    SendsInOrder (fun _ => [frameOf 0x06 [BitVec.ofNat 8 v.toNat]]) (writeRefsel v) :=
  writeRefsel_eq v ▸ xwrite_sendsInOrder default rfl

theorem sendFlash_sendsInOrder : SendsInOrder (fun _ => [[0x40, 0x40]]) sendFlash := xwrite_sendsInOrder default rfl

/-- R171, R172, R174 to R184: an instruction runs an action with at most one exchange. -/
theorem exec_sendsInOrder (i : Instr) : ∃ (F : List Bytes) (m : Action Value), F.length ≤ 1 ∧ SendsInOrder (fun _ => F) m ∧
    ∀ s, exec i s = answer (m s) := by
  cases i with
  | xwrite a p => exact ⟨_, _, le_rfl, (xwrite_sendsInOrder (p := p) default rfl).asValue, fun _ => rfl⟩
  | xread a n => exact ⟨_, _, le_rfl, (xread_sendsInOrder a n).asValue, fun _ => rfl⟩
  | getRegs id => exact ⟨_, _, le_rfl, (readRegs_sendsInOrder id).asValue, fun _ => rfl⟩
  | setRegs id x => exact ⟨_, _, le_rfl, (xwrite_sendsInOrder default rfl).asValue, fun _ => rfl⟩
  | getLabel id => exact ⟨_, _, le_rfl, (readLabel_sendsInOrder id).asValue, fun _ => rfl⟩
  | setLabel id l => exact ⟨_, _, le_rfl, (writeLabel_sendsInOrder id l).asValue, fun _ => rfl⟩
  | getVco id => exact ⟨_, _, le_rfl, (readVco_sendsInOrder id).asValue, fun _ => rfl⟩
  | setVco id low high => exact ⟨_, _, le_rfl, (writeVco_sendsInOrder id _).asValue, fun _ => rfl⟩
  | getRef => exact ⟨_, _, le_rfl, readRef_sendsInOrder.asValue, fun _ => rfl⟩
  | setRef hz => exact ⟨_, _, le_rfl, (writeRef_sendsInOrder hz).asValue, fun _ => rfl⟩
  | getStatus id => exact ⟨_, _, le_rfl, (readStatus_sendsInOrder id).asValue, fun _ => rfl⟩
  | setRefsel v => exact ⟨_, _, le_rfl, (writeRefsel_sendsInOrder v).asValue, fun _ => rfl⟩
  | flash => exact ⟨_, _, le_rfl, sendFlash_sendsInOrder.asValue, fun _ => rfl⟩
  | _ => exact ⟨[], _, Nat.zero_le 1, pureStep_sendsInOrder _, fun _ => rfl⟩

/-! ### The controller functions -/

theorem readModifyWrite_sendsInOrder (id : ChannelId) (f : RegBlock → Except Error RegBlock) :
    SendsInOrder (fun x => [[channelAddress 0x80 id], frameOf (channelAddress 0x00 id) (blockBytes x)])
      (readModifyWrite id f) :=
  ((readRegs_sendsInOrder id).bind fun _ => (pureStep_sendsInOrder _).bind fun x => writeRegs_sendsInOrder id x :)

theorem callEpdf_sendsInOrder (id : ChannelId) :
    SendsInOrder (fun _ => [[0x81], [channelAddress 0x80 id]]) (callEpdf id) :=
  (readRef_sendsInOrder.bind fun _ => (readRegs_sendsInOrder id).bind fun _ => (pureStep_sendsInOrder _).decode :)

theorem callGetFrequency_sendsInOrder (id : ChannelId) :
    SendsInOrder (fun _ => [[channelAddress 0x80 id], [0x81], [channelAddress 0x80 id]]) (callGetFrequency id) :=
  ((readRegs_sendsInOrder id).bind fun _ => (pureStep_sendsInOrder _).bind fun _ => (callEpdf_sendsInOrder id).decode :)

theorem callSetFrequency_sendsInOrder (id : ChannelId) (f : Rat) (sp : Option Rat) :
    SendsInOrder (fun x => expansionFrames x (.setFrequency id f sp)) (callSetFrequency id f sp) := by
  unfold callSetFrequency
  dsimp only
  split
  · exact pureStep_error_sendsInOrder _
  · exact ((readVco_sendsInOrder id).bind fun _ => (callEpdf_sendsInOrder id).bind fun _ s =>
      (pureStep_sendsInOrder _).bind (fun raw => readModifyWrite_sendsInOrder id (setRawSetting raw)) s :)

theorem callSetRfLevel_sendsInOrder (id : ChannelId) (l : SWord) :
    SendsInOrder (fun x => expansionFrames x (.setRfLevel id l)) (callSetRfLevel id l) :=
  ((pureStep_sendsInOrder _).bind fun _ => readModifyWrite_sendsInOrder id _ :)

theorem callSetOptions_sendsInOrder (id : ChannelId) (o : Options) :
    SendsInOrder (fun x => expansionFrames x (.setOptions id o)) (callSetOptions id o) := by
  unfold callSetOptions
  split
  · exact pureStep_error_sendsInOrder _
  · exact readModifyWrite_sendsInOrder id _

/-- R115: the sixteen bytes of a fitted label, one by one. -/
theorem fitLabel_eq_map (l : Bytes) : fitLabel l = (List.range 16).map (l.getD · 0) := by
  refine List.ext_getElem (by simp) fun i hi _ => ?_
  rw [fitLabel_length] at hi
  rw [← List.getD_eq_getElem _ 0, fitLabel_getD hi]
  simp

theorem callSetLabel_sendsInOrder (id : ChannelId) (l : Bytes) :
    SendsInOrder (fun x => expansionFrames x (.setLabel id l)) (callSetLabel id l) := by
  rw [callSetLabel, fitLabel_eq_map]
  exact writeLabel_sendsInOrder id _

/-- R77, R216 to R229, R231, R232: a controller function runs through its expansion. -/
theorem runCall_sendsInOrder (c : Call) : SendsInOrder (fun x => expansionFrames x c) (runCall c) := by
  cases c with
  | getFrequency id => exact (callGetFrequency_sendsInOrder id).asValue
  | setFrequency id f sp => exact (callSetFrequency_sendsInOrder id f sp).asValue
  | getReference => exact readRef_sendsInOrder.asValue
  | setReference hz => exact (writeRef_sendsInOrder hz).asValue
  | getRfLevel id | getOptions id => exact (readRegs_sendsInOrder id).decode.asValue
  | setRfLevel id l => exact (callSetRfLevel_sendsInOrder id l).asValue
  | setOptions id o => exact (callSetOptions_sendsInOrder id o).asValue
  | getRefSelect => exact (readStatus_sendsInOrder .a).decode.asValue
  | setRefSelect v => exact (writeRefsel_sendsInOrder v).asValue
  | getVcoRange id => exact (readVco_sendsInOrder id).asValue
  | setVcoRange id v => exact (writeVco_sendsInOrder id v).asValue
  | getPhaseLock id => exact (readStatus_sendsInOrder id).decode.asValue
  | getLabel id => exact (readLabel_sendsInOrder id).asValue
  | setLabel id l => exact (callSetLabel_sendsInOrder id l).asValue
  | flash => exact sendFlash_sendsInOrder.asValue

/-- Settles O55: both kinds of request run through their byte strings in order. -/
theorem noExchangeIsRepeated : Obligations.NoExchangeIsRepeated := by
  refine ⟨fun i s t ht => ?_, fun c s t ht => ?_⟩
  · obtain ⟨F, m, hF, hm, hexec⟩ := exec_sendsInOrder i
    obtain ⟨-, frames, hs, hpre⟩ := hm.of_answer (hexec s ▸ ht)
    exact ⟨frames, hs, hpre.length_le.trans hF⟩
  · rw [step_call] at ht
    exact (runCall_sendsInOrder c).of_answer ht

end Sys2Proof.Machine

/-! ## The fraction reducer (R200 to R202) -/

namespace Sys2Proof.Machine

open Sys2Proof

/-! ### `reducePair` over the naturals -/

/-- R201, first branch: each operand is its quotient times the greatest common divisor. -/
theorem reducePair_mul_gcd {f m f' m' : Nat} (hf : f ≠ 0) (hm : m ≠ 0) (h : reducePair f m = (f', m')) :
    f' * Nat.gcd f m = f ∧ m' * Nat.gcd f m = m := by
  rw [reducePair, if_pos ⟨hf, hm⟩] at h
  obtain ⟨rfl, rfl⟩ := Prod.mk.inj h
  exact ⟨Nat.div_mul_cancel (Nat.gcd_dvd_left f m), Nat.div_mul_cancel (Nat.gcd_dvd_right f m)⟩

/-- R201, second branch. -/
theorem reducePair_of_eq_zero {f m : Nat} (h : f = 0 ∨ m = 0) : reducePair f m = (0, 1) :=
  if_neg fun ⟨hf, hm⟩ => h.elim hf hm

/-- R202, guarantee 2. -/
theorem reducePair_coprime (f m : Nat) : Nat.Coprime (reducePair f m).1 (reducePair f m).2 := by
  unfold reducePair
  split
  next h => exact Nat.coprime_div_gcd_div_gcd (Nat.gcd_pos_of_pos_left m (Nat.pos_of_ne_zero h.1))
  next => exact Nat.coprime_one_right 0

/-- R202, guarantee 1. -/
theorem reducePair_snd_pos (f m : Nat) : 0 < (reducePair f m).2 := by
  unfold reducePair
  split
  next h => exact Nat.div_gcd_pos_of_pos_right f (Nat.pos_of_ne_zero h.2)
  next => exact Nat.one_pos

theorem reducePair_fst_le (f m : Nat) : (reducePair f m).1 ≤ f := by
  unfold reducePair
  split
  next => exact Nat.div_le_self f _
  next => exact Nat.zero_le f

/-- The modulus grows only from 0, to 1. -/
theorem reducePair_snd_le (f m : Nat) : (reducePair f m).2 ≤ max m 1 := by
  unfold reducePair
  split
  next => exact (Nat.div_le_self m _).trans (le_max_left m 1)
  next => exact le_max_right m 1

/-- R202, guarantee 5: a coprime pair is reduced already; `(0, m)` is coprime for `m = 1` alone. -/
theorem reducePair_of_coprime {f m : Nat} (hm : 0 < m) (h : Nat.Coprime f m) : reducePair f m = (f, m) := by
  rcases Nat.eq_zero_or_pos f with rfl | hf
  · rw [reducePair_of_eq_zero (.inl rfl), (Nat.coprime_zero_left m).1 h]
  · rw [reducePair, if_pos ⟨hf.ne', hm.ne'⟩, h.gcd_eq_one, Nat.div_one, Nat.div_one]

/-! ### GCD and REDUCE over words -/

/-- The greatest common divisor of two words fits in a word. -/
theorem exists_toNat_eq_gcd (a b : Word) : ∃ g : Word, g.toNat = Nat.gcd a.toNat b.toNat := by
  have hle : Nat.gcd a.toNat b.toNat ≤ max a.toNat b.toNat := by
    rcases Nat.eq_zero_or_pos a.toNat with ha | ha
    · rw [ha, Nat.gcd_zero_left]
      exact le_max_right 0 b.toNat
    · exact (Nat.gcd_le_left _ ha).trans (le_max_left _ _)
  exact ⟨.ofNatLT _ (hle.trans_lt (max_lt a.isLt b.isLt)), rfl⟩

/-- R200: GCD answers the word of the greatest common divisor. -/
theorem exec_gcd_of_toNat {a b g : Word} (h : g.toNat = Nat.gcd a.toNat b.toNat) (s : State) :
    exec (.gcd a b) s = .next (s.respond (.ok (.word g))) := by
  obtain rfl : g = BitVec.ofNat 32 (Nat.gcd a.toNat b.toNat) := by rw [← h, BitVec.ofNat_toNat, BitVec.setWidth_eq]
  rfl

/-- The reduced pair of two words fits in two words. -/
theorem exists_reducePair (f m : Word) : ∃ f' m' : Word, reducePair f.toNat m.toNat = (f'.toNat, m'.toNat) := by
  have hf : (reducePair f.toNat m.toNat).1 < 2 ^ 32 := (reducePair_fst_le _ _).trans_lt f.isLt
  have hm : (reducePair f.toNat m.toNat).2 < 2 ^ 32 := (reducePair_snd_le _ _).trans_lt (max_lt m.isLt (by decide))
  exact ⟨.ofNatLT _ hf, .ofNatLT _ hm, rfl⟩

/-- R201: REDUCE answers the words of the reduced pair. -/
theorem exec_reduce_of_reducePair {f m f' m' : Word} (h : reducePair f.toNat m.toNat = (f'.toNat, m'.toNat)) (s : State) :
    exec (.reduce f m) s = .next (s.respond (.ok (.fraction f' m'))) := by
  change give (.ok (.fraction (BitVec.ofNat 32 (reducePair f.toNat m.toNat).1)
    (BitVec.ofNat 32 (reducePair f.toNat m.toNat).2))) s = _
  rw [h, BitVec.ofNat_toNat, BitVec.ofNat_toNat, BitVec.setWidth_eq, BitVec.setWidth_eq]
  rfl

theorem toNat_ne_zero {w : Word} (h : w ≠ 0) : w.toNat ≠ 0 := fun hw => h (BitVec.eq_of_toNat_eq hw)

/-- Settles O26: the word of the greatest common divisor, and REDUCE by whether an operand is 0. -/
theorem gcdAndReduce : Obligations.GcdAndReduce := by
  refine ⟨fun a b s => ?_, fun f m s => ⟨fun hf hm => ?_, fun h => ?_⟩⟩
  · obtain ⟨g, hg⟩ := exists_toNat_eq_gcd a b
    refine ⟨g, exec_gcd_of_toNat hg s, ?_⟩
    rw [hg]
    exact ⟨Nat.gcd_dvd_left _ _, Nat.gcd_dvd_right _ _, fun _ => Nat.dvd_gcd⟩
  · obtain ⟨f', m', h⟩ := exists_reducePair f m
    obtain ⟨hf', hm'⟩ := reducePair_mul_gcd (toNat_ne_zero hf) (toNat_ne_zero hm) h
    obtain ⟨g, hg⟩ := exists_toNat_eq_gcd f m
    refine ⟨f', m', g, exec_reduce_of_reducePair h s, exec_gcd_of_toNat hg s, by rw [hg, hf'], by rw [hg, hm'], fun h0 => ?_⟩
    rw [h0] at hg
    exact toNat_ne_zero hf (Nat.eq_zero_of_gcd_eq_zero_left hg.symm)
  · have h0 : f.toNat = 0 ∨ m.toNat = 0 := h.imp (congrArg BitVec.toNat) (congrArg BitVec.toNat)
    exact exec_reduce_of_reducePair (reducePair_of_eq_zero h0) s

/-- R202, guarantee 4: a common factor taken out leaves the ratio and the order as they were, and makes neither number larger. -/
theorem fraction_of_common_factor {f m f' m' g : Nat} (hf : f ≠ 0) (hf' : f' * g = f) (hm' : m' * g = m) :
    f' * m = f * m' ∧ 1 ≤ f' ∧ f' ≤ f ∧ m' ≤ m ∧ (f' < m' ↔ f < m) := by
  subst hf' hm'
  have hf₀ : 0 < f' := Nat.pos_of_ne_zero (left_ne_zero_of_mul hf)
  have hg : 0 < g := Nat.pos_of_ne_zero (right_ne_zero_of_mul hf)
  exact ⟨by rw [mul_right_comm, mul_assoc], hf₀, Nat.le_mul_of_pos_right f' hg, Nat.le_mul_of_pos_right m' hg,
    (Nat.mul_lt_mul_right hg).symm⟩

/-- Settles O27: the guarantees of `reducePair`; the result is coprime, so it is its own reduced pair. -/
theorem reduceGuarantees : Obligations.ReduceGuarantees := by
  intro f m s
  obtain ⟨f', m', h⟩ := exists_reducePair f m
  have hpos := reducePair_snd_pos f.toNat m.toNat
  have hcop := reducePair_coprime f.toNat m.toNat
  have hfle := reducePair_fst_le f.toNat m.toNat
  have hmle := reducePair_snd_le f.toNat m.toNat
  rw [h] at hpos hcop hfle hmle
  refine ⟨f', m', exec_reduce_of_reducePair h s, hpos, hcop, fun h0 => ?_, fun hf hm => ?_,
    exec_reduce_of_reducePair (reducePair_of_coprime hpos hcop) s,
    fun hf hm => ⟨hfle.trans_lt hf, hmle.trans_lt (max_lt hm (by decide))⟩⟩
  · rw [h0] at hcop
    exact BitVec.eq_of_toNat_eq ((Nat.coprime_zero_left _).1 hcop)
  · obtain ⟨hf', hm'⟩ := reducePair_mul_gcd (toNat_ne_zero hf) (toNat_ne_zero hm) h
    exact fraction_of_common_factor (toNat_ne_zero hf) hf' hm'

end Sys2Proof.Machine

/-! ## The projections (R210 to R215) -/

namespace Sys2Proof.Machine

open Sys2Proof Sys2Proof.Safety

/-! ### What each projection reads (R210, R212, R214) -/

/-- R210: past the divider code GETFS refuses nothing. -/
theorem getSetting_of_dbf {x : RegBlock} {dbf : Word} (h : decodeDbf (bitsOf x.r4 20 3) = .ok dbf) :
    getSetting x = .ok { ncount := bitsOf x.r0 15 16, frac := bitsOf x.r0 3 12, mod := bitsOf x.r1 3 12, dbf := dbf } := by
  rw [getSetting, h]
  rfl

theorem getSetting_of_dbf_error {x : RegBlock} {e : Error} (h : decodeDbf (bitsOf x.r4 20 3) = .error e) :
    getSetting x = .error e := by
  rw [getSetting, h]
  rfl

/-- R212: past the low-spur field GETOPT refuses nothing. -/
theorem getOptionsOf_of_lowSpur {x : RegBlock} {v : Bool} (h : decodeLowSpur (bitsOf x.r2 29 2) = .ok v) :
    getOptionsOf x = .ok
      { doubleRef := bitsOf x.r2 25 1 == 1, halfRef := bitsOf x.r2 24 1 == 1, r := bitsOf x.r2 14 10, lowSpur := v } := by
  rw [getOptionsOf, h]
  rfl

theorem getOptionsOf_of_lowSpur_error {x : RegBlock} {e : Error} (h : decodeLowSpur (bitsOf x.r2 29 2) = .error e) :
    getOptionsOf x = .error e := by
  rw [getOptionsOf, h]
  rfl

theorem twoPow_eq_ofNat (c : Nat) : BitVec.twoPow 32 c = BitVec.ofNat 32 (2 ^ c) :=
  BitVec.eq_of_toNat_eq (by rw [BitVec.toNat_twoPow, BitVec.toNat_ofNat])

theorem bitsOf_beq_one (w : Word) {off : Nat} : (bitsOf w off 1 == 1) = decide (w.toNat / 2 ^ off % 2 = 1) := by
  rw [Bool.eq_iff_iff, beq_iff_eq, ← BitVec.toNat_inj, bitsOf_toNat _ _ _ (by decide), decide_eq_true_eq]
  rfl

/-- Settles O21: the divider code and the low-spur field decide, and every other field is read as it stands. -/
theorem projectionsReadTheFields : Obligations.ProjectionsReadTheFields := by
  refine fun x s => ⟨fun h => ?_, fun h => ?_, fun v h => ?_, fun h => ?_⟩
  · have hdbf := getSetting_of_dbf (x := x) (decodeDbf_ofNat h)
    rw [twoPow_eq_ofNat] at hdbf
    exact give_map_ok.2 ⟨rfl, _, hdbf, rfl⟩
  · have hcode := bitsOf_toNat x.r4 20 3 (by decide)
    exact give_map_error.2 ⟨rfl, getSetting_of_dbf_error (decodeDbf_of_reserved (by omega) (by omega))⟩
  · have hraw : bitsOf x.r2 29 2 = BitVec.ofNat 32 (3 * v.toNat) := congrArg (BitVec.ofNat 32) h
    have hopt := getOptionsOf_of_lowSpur (x := x) (hraw ▸ decodeLowSpur_ofNat v)
    rw [bitsOf_beq_one, bitsOf_beq_one] at hopt
    exact give_map_ok.2 ⟨rfl, _, hopt, rfl⟩
  · have hraw := bitsOf_toNat x.r2 29 2 (by decide)
    exact give_map_error.2 ⟨rfl, getOptionsOf_of_lowSpur_error (decodeLowSpur_of_reserved (by omega) (by omega))⟩

/-! ### The bits that a field write changes, as the layouts of R23 to R28 name them -/

/-- R131 for the field `[last:off]`. -/
theorem putField_getLsbD_upTo (w : Word) (off width last : Nat) {v : Word} (h : off + width = last + 1) (hlast : last < 32)
    (hv : v.toNat < 2 ^ width) {i : Nat} (hi : i < 32) :
    (putField w off width v).getLsbD i = if off ≤ i ∧ i ≤ last then v.getLsbD (i - off) else w.getLsbD i := by
  rw [putField_getLsbD w off width v (by omega) hv i hi, h]
  simp only [Nat.lt_succ_iff]

/-- R213: a Boolean in a one-bit field. -/
theorem putField_bitOf_getLsbD (w : Word) {off : Nat} (v : Bool) (hoff : off < 32) {i : Nat} (hi : i < 32) :
    (putField w off 1 (bitOf v)).getLsbD i = if i = off then v else w.getLsbD i := by
  rw [putField_getLsbD_upTo w off 1 off rfl hoff (bitOf_lt v) hi]
  obtain rfl | hne := eq_or_ne i off
  · cases v <;> simp [bitOf]
  · rw [if_neg (by omega), if_neg hne]

theorem bitOf_beq_one (v : Bool) : (bitOf v == 1) = v := by cases v <;> rfl

/-- R150: low spur stands in both bits of its field. -/
theorem encodeLowSpur_getLsbD (v : Bool) {i : Nat} (hi : i < 2) : (encodeLowSpur v).getLsbD i = v := by
  interval_cases i <;> cases v <;> rfl

/-! ### SETFS (R211) -/

/-- R146: the divider codes, from the code to the divider. -/
theorem encodeDbf_eq_ok {d code : Word} (h : encodeDbf d = .ok code) :
    ∃ c < 5, d = BitVec.twoPow 32 c ∧ code = BitVec.ofNat 32 c := by
  by_contra! hne
  have hd : ∀ c < 5, d ≠ BitVec.twoPow 32 c := fun c hc hd =>
    hne c hc hd (Except.ok.inj (h.symm.trans (hd ▸ encodeDbf_twoPow hc)))
  nomatch h.symm.trans (encodeDbf_of_ne_twoPow hd)

theorem eq_twoPow_of_toNat {d : Word} {c : Nat} (hc : c < 5) (h : d.toNat = 2 ^ c) : d = BitVec.twoPow 32 c :=
  BitVec.eq_of_toNat_eq (by rw [h, BitVec.toNat_twoPow_of_lt (by omega)])

section
variable {x : RegBlock} {fs : FrequencySetting}

theorem setSetting_of_ncount (hn : 65536 ≤ fs.ncount.toNat) : setSetting x fs = badArgument (.field .ncount) := if_pos hn

theorem setSetting_of_frac (hn : fs.ncount.toNat < 65536) (hf : 4096 ≤ fs.frac.toNat) :
    setSetting x fs = badArgument (.field .frac) :=
  (if_neg hn.not_ge).trans (if_pos hf)

theorem setSetting_of_mod (hn : fs.ncount.toNat < 65536) (hf : fs.frac.toNat < 4096)
    (hm : 4096 ≤ fs.mod.toNat ∨ fs.mod = 0) : setSetting x fs = badArgument (.field .mod) :=
  (if_neg hn.not_ge).trans ((if_neg hf.not_ge).trans (if_pos hm))

theorem setSetting_of_dbf (hn : fs.ncount.toNat < 65536) (hf : fs.frac.toNat < 4096) (hm : fs.mod.toNat < 4096)
    (h0 : fs.mod ≠ 0) (hd : encodeDbf fs.dbf = badArgument .dbf) : setSetting x fs = badArgument .dbf := by
  rw [setSetting, if_neg hn.not_ge, if_neg hf.not_ge, if_neg (not_or.2 ⟨hm.not_ge, h0⟩), hd]
  rfl

theorem setSetting_of_legal {code : Word} (hn : fs.ncount.toNat < 65536) (hf : fs.frac.toNat < 4096)
    (hm : fs.mod.toNat < 4096) (h0 : fs.mod ≠ 0) (hcode : encodeDbf fs.dbf = .ok code) : setSetting x fs = .ok
      { x with
        r0 := putField (putField x.r0 15 16 fs.ncount) 3 12 fs.frac
        r1 := putField x.r1 3 12 fs.mod
        r4 := putField x.r4 20 3 code } := by
  rw [setSetting, if_neg hn.not_ge, if_neg hf.not_ge, if_neg (not_or.2 ⟨hm.not_ge, h0⟩), hcode]
  rfl

/-- GETFS reads back what SETFS wrote. -/
theorem getSetting_of_setSetting {x' : RegBlock} (h : setSetting x fs = .ok x') : getSetting x' = .ok fs := by
  obtain ⟨code, hn, hf, hm, -, hcode, rfl⟩ := setSetting_eq_ok h
  obtain ⟨c, hc, hd, rfl⟩ := encodeDbf_eq_ok hcode
  rw [getSetting_of_dbf (dbf := fs.dbf)]
  · simp (disch := omega) only [bitsOf_putField_disjoint, bitsOf_putField]
  · rw [bitsOf_putField _ _ _ _ (by decide) (encodeDbf_lt hcode), hd, decodeDbf_ofNat hc]

end

/-- Settles O22: the fields that SETFS writes, the tests in their order, and `getSetting_of_setSetting`. -/
theorem setfsChangesOnlyItsFields : Obligations.SetfsChangesOnlyItsFields := by
  refine ⟨fun x fs c s hn hf hm h0 hc hd => ?_, fun x fs s => ⟨fun hn => ?_, fun hn hf => ?_, fun hn hf hm => ?_,
    fun hn hf hm h0 hd => ?_⟩⟩
  · have hcode : encodeDbf fs.dbf = .ok (BitVec.ofNat 32 c) := by rw [eq_twoPow_of_toNat hc hd, encodeDbf_twoPow hc]
    have hset := setSetting_of_legal (x := x) hn hf hm h0 hcode
    refine ⟨_, give_map_ok.2 ⟨rfl, _, hset, rfl⟩, rfl, rfl, rfl, fun i hi => ?_, fun i hi => ?_, fun i hi => ?_,
      give_map_ok.2 ⟨rfl, _, getSetting_of_setSetting hset, rfl⟩⟩
    · rw [putField_comm_of_disjoint _ (by decide) hf (by decide) hn (by decide),
        putField_getLsbD_upTo _ 15 16 30 rfl (by decide) hn hi, putField_getLsbD_upTo _ 3 12 14 rfl (by decide) hf hi]
    · exact putField_getLsbD_upTo _ 3 12 14 rfl (by decide) hm hi
    · rw [putField_getLsbD_upTo _ 20 3 22 rfl (by decide) (encodeDbf_lt hcode) hi, BitVec.getLsbD_ofNat,
        decide_eq_true (show i - 20 < 32 by omega), Bool.true_and]
  · exact give_map_error.2 ⟨rfl, setSetting_of_ncount hn⟩
  · exact give_map_error.2 ⟨rfl, setSetting_of_frac hn hf⟩
  · exact give_map_error.2 ⟨rfl, setSetting_of_mod hn hf hm⟩
  · have hne : ∀ c < 5, fs.dbf ≠ BitVec.twoPow 32 c := fun c hc h =>
      hd c hc (by rw [h, BitVec.toNat_twoPow_of_lt (by omega)])
    exact give_map_error.2 ⟨rfl, setSetting_of_dbf hn hf hm h0 (encodeDbf_of_ne_twoPow hne)⟩

/-! ### SETOPT (R213) -/

/-- GETOPT reads back what SETOPT wrote: each field below the low-spur bits is disjoint from those written after it. -/
theorem getOptionsOf_of_setOptionsOf {x x' : RegBlock} {o : Options} (h : setOptionsOf x o = .ok x') :
    getOptionsOf x' = .ok o := by
  obtain ⟨hr, rfl⟩ := setOptionsOf_eq_ok h
  have hl := encodeLowSpur_lt o.lowSpur
  have hh := bitOf_lt o.halfRef
  have hd := bitOf_lt o.doubleRef
  rw [getOptionsOf_of_lowSpur (v := o.lowSpur)]
  · simp (disch := omega) only [bitsOf_putField_disjoint, bitsOf_putField, bitOf_beq_one]
  · rw [bitsOf_putField _ _ _ _ (by decide) hl, encodeLowSpur_eq, decodeLowSpur_ofNat]

/-- Settles O23: the four fields that SETOPT writes, bit by bit, and `getOptionsOf_of_setOptionsOf`. -/
theorem setoptChangesOnlyItsFields : Obligations.SetoptChangesOnlyItsFields := by
  refine fun x o s => ⟨fun hr => give_map_error.2 ⟨rfl, if_pos hr⟩, fun hr => ?_⟩
  obtain ⟨x', hset⟩ := setOptionsOf_of_lt x hr
  have hget := getOptionsOf_of_setOptionsOf hset
  obtain ⟨-, rfl⟩ := setOptionsOf_eq_ok hset
  refine ⟨_, give_map_ok.2 ⟨rfl, _, hset, rfl⟩, fun i hi => ?_, give_map_ok.2 ⟨rfl, _, hget, rfl⟩⟩
  rw [putField_getLsbD_upTo _ 29 2 30 rfl (by decide) (encodeLowSpur_lt _) hi,
    putField_getLsbD_upTo _ 14 10 23 rfl (by decide) hr hi, putField_bitOf_getLsbD _ _ (by decide) hi,
    putField_bitOf_getLsbD _ _ (by decide) hi]
  split
  case isTrue hin => exact encodeLowSpur_getLsbD _ (by omega)
  case isFalse => grind

/-! ### GETRFL and SETRFL (R214, R215) -/

theorem exists_level_of_code {c : Nat} (hc : c < 4) : ∃ l : SWord, l.toInt = 3 * (c : Int) - 4 :=
  ⟨BitVec.ofInt 32 (3 * (c : Int) - 4), BitVec.toInt_ofInt_eq_self (by decide) (by omega) (by omega)⟩

/-- Settles O24: every code of the two bits is a level, and a level's code fits the two bits. -/
theorem rfLevelProjection : Obligations.RfLevelProjection := by
  refine ⟨fun x s => ?_, fun x l c s hc hl => ?_, fun x l s hl => ?_⟩
  · have hc : x.r4.toNat / 2 ^ 3 % 4 < 4 := Nat.mod_lt _ (by decide)
    obtain ⟨l, hl⟩ := exists_level_of_code hc
    exact ⟨l, give_map_ok.2 ⟨rfl, _, decodeRfLevel_eq hc hl, rfl⟩, hl⟩
  · have hcode := encodeRfLevel_eq hc hl
    have hfits := encodeRfLevel_lt hcode
    have hset : setLevel x l = .ok { x with r4 := putField x.r4 3 2 (BitVec.ofNat 32 c) } := map_eq_ok.2 ⟨_, hcode, rfl⟩
    refine ⟨_, give_map_ok.2 ⟨rfl, _, hset, rfl⟩, fun i hi => ?_, give_map_ok.2 ⟨rfl, _, ?_, rfl⟩⟩
    · rw [putField_getLsbD_upTo _ 3 2 4 rfl (by decide) hfits hi, BitVec.getLsbD_ofNat,
        decide_eq_true (show i - 3 < 32 by omega), Bool.true_and]
    · rw [getLevel, bitsOf_putField _ _ _ _ (by decide) hfits, decodeRfLevel_eq hc hl]
  · exact give_map_error.2 ⟨rfl, by rw [setLevel, encodeRfLevel_of_ne hl]; rfl⟩

end Sys2Proof.Machine

/-! ## The controller functions with an attached device (R187, R216 to R231) -/

namespace Sys2Proof.Machine

open Sys2Proof Sys2Proof.Safety

/-! ### Arguments that are refused (R219, R221, R235) -/

/-- Settles O35: each of the three tests stands before the function's first exchange. -/
theorem argumentErrorsPrecedeTheWire : Obligations.ArgumentErrorsPrecedeTheWire := by
  refine fun s id => ⟨fun l h0 h1 h2 h3 => ?_, fun o hr => ?_, fun f sp hsp => ?_⟩
  · have hl : encodeRfLevel l = badArgument .rfLevel := encodeRfLevel_of_ne fun c hc h => by omega
    rw [step_call]
    exact answer_asValue_error.2 (by rw [callSetRfLevel, hl, badArgument, andThen_pure_error])
  · exact answer_asValue_error.2 (congrFun (if_pos hr : callSetOptions id o = pureStep (badArgument (.field .r))) s)
  · exact answer_asValue_error.2 (congrFun (if_pos hsp : callSetFrequency id f (some sp) = pureStep (badArgument .spacing)) s)

/-! ### One read exchange (R216, R218, R220, R222, R224, R226, R227) -/

section
variable {s : State} {id : ChannelId}

theorem readLabel_ideal (h : nextDraw s = idealDraw) :
    readLabel id s = (.ok (s.device.bank id).label.toList, s.transmit [channelAddress 0x82 id]) := by
  rw [readLabel_eq]
  exact xread_ideal h Vector.length_toList (readReply_eq s.device .getLabel id _ rfl rfl)

theorem readStatus_ideal (h : nextDraw s = idealDraw) :
    readStatus id s = (.ok s.device.status, s.transmit [channelAddress 0x86 id]) := by
  rw [readStatus_eq]
  exact andThen_ok (xread_ideal (n := 1) h rfl (readReply_eq s.device .getStatus id [s.device.status] rfl rfl))

/-- An action that did no more than one exchange, as the host sees it. -/
theorem answer_transmit {α : Type} {f : α → Value} {m : Action α} {r : Except Error α} {frame : Bytes}
    (h : m s = (r, s.transmit frame)) :
    ∃ t, answer (asValue f m s) = .next t ∧ Exchanged s t frame (responseOf (r.map f)) s.device := by
  rw [asValue_eq, h]
  exact ⟨_, rfl, exchanged_transmit ..⟩

/-- A read whose result is decoded further. -/
theorem andThen_decode_ok {α β : Type} {m : Action α} {decode : α → Except Error β} {s' : State} {a : α}
    (h : m s = (.ok a, s')) : andThen m (fun a => pureStep (decode a)) s = (decode a, s') :=
  andThen_ok h

/-- An operation on its operands alone says by its response what it computed. -/
theorem responseOf_of_give {r : Except Error Value} {q : Response} (h : give r s = .next (s.respond q)) :
    responseOf r = q :=
  (respond_inj.1 (Host.Outcome.next.inj h)).2

end

/-! ### The three read exchanges of `getFrequency` (R230, R231) -/

theorem callEpdf_ideal {s : State} (id : ChannelId) (h : IdealLink s 2) :
    callEpdf id s = ((getOptionsOf (s.device.bank id).regs).map (effectiveFrequency s.device.reference),
      (s.transmit [0x81]).transmit [channelAddress 0x80 id]) := by
  obtain ⟨hd, hnext⟩ := idealLink_step h
  obtain ⟨hd', -⟩ := idealLink_step (hnext (s.transmit [0x81]) (transmit_link ..))
  rw [callEpdf, andThen_ok (readRef_ideal hd), andThen_ok (readRegs_ideal hd'), transmit_device]
  cases getOptionsOf (s.device.bank id).regs with
  | error e => rfl
  | ok o => rw [andThen_pure_ok, pureStep_apply, epdfOf_eq]; rfl

theorem callGetFrequency_of_setting_error {s : State} {id : ChannelId} {e : Error} (h : nextDraw s = idealDraw)
    (hfs : getSetting (s.device.bank id).regs = .error e) :
    callGetFrequency id s = (.error e, s.transmit [channelAddress 0x80 id]) := by
  rw [callGetFrequency, andThen_ok (readRegs_ideal h), hfs, andThen_pure_error]

theorem callGetFrequency_ideal {s : State} {id : ChannelId} {fs : FrequencySetting} (h : IdealLink s 3)
    (hfs : getSetting (s.device.bank id).regs = .ok fs) : callGetFrequency id s =
      (getOptionsOf (s.device.bank id).regs >>= fun o => frequencyOf fs (effectiveFrequency s.device.reference o),
        ((s.transmit [channelAddress 0x80 id]).transmit [0x81]).transmit [channelAddress 0x80 id]) := by
  obtain ⟨hd, hnext⟩ := idealLink_step h
  have hepdf := callEpdf_ideal id (hnext (s.transmit [channelAddress 0x80 id]) (transmit_link ..))
  rw [transmit_device] at hepdf
  rw [callGetFrequency, andThen_ok (readRegs_ideal hd), hfs, andThen_pure_ok]
  cases hopt : getOptionsOf (s.device.bank id).regs with
  | error e => rw [hopt] at hepdf; exact andThen_error hepdf
  | ok o => rw [hopt] at hepdf; exact andThen_ok hepdf

theorem responseOf_frequencyOf (fs : FrequencySetting) (epdf : Rat) :
    responseOf ((frequencyOf fs epdf).map .frequency) = if fs.mod = 0 then .error (.invalidArgument .modZero)
      else .ok (.frequency (((fs.ncount.toNat : Rat) + (fs.frac.toNat : Rat) / (fs.mod.toNat : Rat)) * epdf /
        (fs.dbf.toNat : Rat))) := by
  unfold frequencyOf
  split <;> rfl

/-- R231 with three replies, as the host sees it. -/
theorem answer_callGetFrequency_ideal {s : State} {id : ChannelId} {fs : FrequencySetting} (h : IdealLink s 3)
    (hfs : getSetting (s.device.bank id).regs = .ok fs) :
    ∃ t, answer (asValue .frequency (callGetFrequency id) s) = .next t ∧
      t.responses = s.responses ++ [responseOf ((getOptionsOf (s.device.bank id).regs >>= fun o =>
        frequencyOf fs (effectiveFrequency s.device.reference o)).map .frequency)] ∧
      t.sent = s.sent ++ [[channelAddress 0x80 id], [0x81], [channelAddress 0x80 id]] ∧ t.device = s.device := by
  rw [asValue_eq, callGetFrequency_ideal h hfs]
  exact ⟨_, rfl, by simp, by simp, by simp⟩

theorem externalReference_eq_decide (status : Byte) : externalReference status = decide (status.toNat % 2 = 1) := by
  rw [externalReference_eq, getLsbD_eq_decide, Nat.pow_zero, Nat.div_one]

/-- Settles O36: the seven getters of one exchange, and `getFrequency` by what GETFS makes of its first read. -/
theorem gettersAnswerTheDevice : Obligations.GettersAnswerTheDevice := by
  refine ⟨fun s id hlink => ?_, fun s id e hlink hfs => ?_, fun s id fs hlink hfs => ?_⟩
  · obtain ⟨hd, -⟩ := idealLink_step hlink
    refine ⟨answer_transmit (readRef_ideal hd), answer_transmit (readVco_ideal hd), answer_transmit (readLabel_ideal hd),
      ?_, ?_, fun l hl => ?_, fun r hr => ?_⟩
    · rw [← externalReference_eq_decide]
      exact answer_transmit (andThen_decode_ok (readStatus_ideal hd))
    · have hread := answer_transmit (f := .bool) (andThen_decode_ok (decode := fun st => .ok (phaseLocked id st))
        (readStatus_ideal (id := id) hd))
      cases id with
      | a => rwa [phaseLocked_a] at hread
      | b => rwa [phaseLocked_b] at hread
    · rw [← responseOf_of_give hl]
      exact answer_transmit (andThen_decode_ok (readRegs_ideal hd))
    · rw [← responseOf_of_give hr]
      exact answer_transmit (andThen_decode_ok (readRegs_ideal hd))
  · obtain ⟨hd, -⟩ := idealLink_step hlink
    obtain ⟨-, hfs⟩ := give_map_error.1 hfs
    exact answer_transmit (callGetFrequency_of_setting_error hd hfs)
  · obtain ⟨-, _, hfs, ⟨⟩⟩ := give_map_ok.1 hfs
    obtain ⟨t, ht, hresponse, hsent, hdevice⟩ := answer_callGetFrequency_ideal hlink hfs
    refine ⟨t, _, ht, hresponse, hsent, hdevice, fun e he => ?_, fun o ho => ?_⟩
    · rw [getOptionsOf_of_exec_error he]
      rfl
    · rw [getOptionsOf_of_exec ho]
      exact responseOf_frequencyOf fs _

/-! ### One write exchange (R217, R223, R225, R228, R229) -/

theorem exec_xwrite_ideal {s : State} {a : Byte} {p : Bytes} {dev : Device} (h : nextDraw s = idealDraw)
    (hd : storeAt s.device a p = some dev) :
    ∃ t, exec (.xwrite a p) s = .next t ∧ Exchanged s t (frameOf a p) (.ok .none) dev :=
  ⟨_, answer_asValue_ok.2 ⟨(), xwrite_ideal h hd, rfl⟩, exchanged_of ..⟩

section
variable (s : State) (id : ChannelId)

theorem step_setReference (hz : Word) : step (s.pushRequest (.call (.setReference hz))) = exec (.setRef hz) s := rfl

theorem step_setVcoRange (v : VcoRange) :
    step (s.pushRequest (.call (.setVcoRange id v))) = exec (.setVco id v.low v.high) s := rfl

theorem step_setRefSelect (v : Bool) : step (s.pushRequest (.call (.setRefSelect v))) = exec (.setRefsel v) s := rfl

theorem step_setLabel (l : Bytes) :
    step (s.pushRequest (.call (.setLabel id l))) = exec (.setLabel id (fitLabel l)) s := rfl

theorem step_flash : step (s.pushRequest (.call .flash)) = exec .flash s := rfl

end

/-- Settles O37: each setter is a wire command, and its frame writes its item. -/
theorem directSettersWriteOnce : Obligations.DirectSettersWriteOnce := by
  intro s id hlink
  obtain ⟨hd, -⟩ := idealLink_step hlink
  refine ⟨fun hz => ?_, fun v => ?_, fun v => ?_, fun label => ?_, exec_xwrite_ideal hd (storeAt_flash _)⟩
  · rw [step_setReference, exec_setRef]
    exact exec_xwrite_ideal hd (storeAt_ref ..)
  · rw [step_setVcoRange, exec_setVco]
    exact exec_xwrite_ideal hd (storeAt_vco ..)
  · obtain ⟨t, ht, hex⟩ := exec_xwrite_ideal hd (storeAt_refsel _ v)
    rw [step_setRefSelect, exec_setRefsel]
    exact ⟨t, _, ht, hex, rfl, fun i hi => status_refsel_getLsbD _ v hi⟩
  · obtain ⟨t, ht, hex⟩ := exec_xwrite_ideal hd (storeAt_label _ id _ (fitLabel_length label))
    rw [step_setLabel, exec_setLabel_of_length id (fitLabel_length label)]
    exact ⟨t, _, fitLabel label, ht, hex, by rw [setBank_bank], congrArg (·.label.toList) (setBank_bank ..),
      fun i hi => fitLabel_getD hi⟩

/-! ### One read and one write exchange (R186, R219, R221) -/

theorem readModifyWrite_ideal {s : State} {id : ChannelId} {f : RegBlock → Except Error RegBlock} {x' : RegBlock}
    (h : IdealLink s 2) (hf : f (s.device.bank id).regs = .ok x') : readModifyWrite id f s = (.ok (),
      { (s.transmit [channelAddress 0x80 id]).transmit (frameOf (channelAddress 0x00 id) (blockBytes x')) with
        device := s.device.setBank id { s.device.bank id with regs := x' } }) := by
  obtain ⟨hd, hnext⟩ := idealLink_step h
  obtain ⟨hd', -⟩ := idealLink_step (hnext (s.transmit [channelAddress 0x80 id]) (transmit_link ..))
  rw [readModifyWrite_of_read (readRegs_ideal hd) hf, writeRegs_ideal x' hd', transmit_device]

/-- The same, as the host sees it. -/
theorem answer_readModifyWrite_ideal {s : State} {id : ChannelId} {f : RegBlock → Except Error RegBlock} {x' : RegBlock}
    (h : IdealLink s 2) (hf : f (s.device.bank id).regs = .ok x') :
    ∃ t, answer (asValue (fun _ => .none) (readModifyWrite id f) s) = .next t ∧ t.responses = s.responses ++ [.ok .none] ∧
      t.sent = s.sent ++ [[channelAddress 0x80 id], frameOf (channelAddress 0x00 id) (blockBytes x')] ∧
      t.device = s.device.setBank id { s.device.bank id with regs := x' } :=
  ⟨_, answer_asValue_ok.2 ⟨(), readModifyWrite_ideal h hf, rfl⟩, by simp, by simp, rfl⟩

/-- R219: a level that SETRFL accepts passes the test before the exchanges. -/
theorem callSetRfLevel_of_setLevel (id : ChannelId) {x x' : RegBlock} {l : SWord} (h : setLevel x l = .ok x') :
    callSetRfLevel id l = readModifyWrite id fun x => setLevel x l := by
  obtain ⟨code, hcode, -⟩ := setLevel_eq_ok h
  rw [callSetRfLevel, hcode]
  rfl

/-- Settles O38: each setter is the read-modify-write of its projection. -/
theorem rmwSettersRewriteTheBlock : Obligations.RmwSettersRewriteTheBlock := by
  refine fun s id x' hlink => ⟨fun l hl => ?_, fun o ho => ?_⟩
  · have hset := ok_of_give_block hl
    rw [step_call, runCall, callSetRfLevel_of_setLevel id hset]
    exact answer_readModifyWrite_ideal hlink hset
  · have hset := ok_of_give_block ho
    rw [step_call, runCall, callSetOptions_of_lt id (setOptionsOf_eq_ok hset).1]
    exact answer_readModifyWrite_ideal hlink hset

end Sys2Proof.Machine

/-! ## The output divider (R233) -/

namespace Sys2Proof.Machine

open Sys2Proof Sys2Proof.Safety

/-- The loop from `2 ^ k` on stops at the first power whose product is above `low`, or at 16. -/
theorem dividerLoop_twoPow (f low : Rat) {fuel k : Nat} (h : k + fuel = 4) :
    ∃ c, k ≤ c ∧ c ≤ 4 ∧ dividerLoop f low fuel (2 ^ k) = 2 ^ c ∧
      (∀ j, k ≤ j → j < c → f * ((2 ^ j : Nat) : Rat) ≤ low) ∧ (c < 4 → low < f * ((2 ^ c : Nat) : Rat)) := by
  induction fuel generalizing k with
  | zero => exact ⟨k, le_rfl, h.le, rfl, fun j hkj hjk => by omega, fun hk => by omega⟩
  | succ fuel ih =>
    have h16 : 2 ^ k < 16 := Nat.pow_lt_pow_right (n := 4) Nat.one_lt_two (by omega)
    by_cases hle : f * ((2 ^ k : Nat) : Rat) ≤ low
    · obtain ⟨c, hkc, hc, hloop, hbelow, habove⟩ := ih (k := k + 1) (by omega)
      rw [dividerLoop, if_pos ⟨hle, h16⟩, ← Nat.pow_succ]
      refine ⟨c, by omega, hc, hloop, fun j hkj hjc => ?_, habove⟩
      obtain rfl | hlt := hkj.eq_or_lt
      · exact hle
      · exact hbelow j hlt hjc
    · rw [dividerLoop, if_neg fun hand => hle hand.1]
      exact ⟨k, le_rfl, by omega, rfl, fun j hkj hjk => by omega, fun _ => not_le.1 hle⟩

/-- Settles O40: the loop from 1 on. -/
theorem dividerIsTheSmallestThatFits : Obligations.DividerIsTheSmallestThatFits := by
  intro f low
  obtain ⟨c, -, hc, hloop, hbelow, habove⟩ := dividerLoop_twoPow f (low.toNat : Rat) (fuel := 4) (k := 0) rfl
  exact ⟨c, hc, hloop, fun j hj => hbelow j j.zero_le hj, habove⟩

theorem exists_chooseDivider_eq_twoPow (f : Rat) (low : Half) : ∃ c < 5, chooseDivider f low = 2 ^ c := by
  obtain ⟨c, hc, hdbf, -⟩ := dividerIsTheSmallestThatFits f low
  exact ⟨c, Nat.lt_succ_of_le hc, hdbf⟩

theorem chooseDivider_pos (f : Rat) (low : Half) : 0 < chooseDivider f low := by
  obtain ⟨c, -, hdbf⟩ := exists_chooseDivider_eq_twoPow f low
  exact hdbf ▸ Nat.two_pow_pos c

theorem chooseDivider_lt (f : Rat) (low : Half) : chooseDivider f low < 2 ^ 32 := by
  obtain ⟨c, hc, hdbf⟩ := exists_chooseDivider_eq_twoPow f low
  exact hdbf ▸ Nat.pow_lt_pow_right Nat.one_lt_two (by omega)

end Sys2Proof.Machine

/-! ## The arithmetic of `setFrequency` (R230, R234 to R238) -/

namespace Sys2Proof.Machine

open Sys2Proof Sys2Proof.Safety

theorem effectiveFrequency_nonneg (hz : Word) (o : Options) : 0 ≤ effectiveFrequency hz o := by
  unfold effectiveFrequency
  split <;> split <;> positivity

/-! ### Steps 4 to 7 -/

theorem floor_eq_toNat (t : Rat) (h : 0 ≤ t) : (t.floor : Rat) = (t.floor.toNat : Rat) := by
  rw [← Int.cast_natCast, Int.toNat_of_nonneg (Rat.le_floor_iff.2 (by exact_mod_cast h))]

/-- R234 to R236: `ncount` whole EPDFs are in `vco`, and `frac` and `mod` are the rest and the EPDF in spacings, rounded. -/
structure IsCount (halfUp : Bool) (vco spacing epdf : Rat) (ncount frac mod : Nat) : Prop where
  le_vco : (ncount : Rat) * epdf ≤ vco
  vco_lt : vco < ((ncount : Rat) + 1) * epdf
  frac_rounded : IsRounded halfUp ((vco - (ncount : Rat) * epdf) / spacing) frac
  mod_rounded : IsRounded halfUp (epdf / spacing) mod

section
variable {halfUp : Bool} {f spacing epdf : Rat} {dbf : Nat}

theorem computeSetting_of_epdf_zero : computeSetting halfUp f spacing 0 dbf = badArgument .epdfZero := by
  rw [computeSetting, if_pos rfl]

theorem computeSetting_of_neg (hepdf : epdf ≠ 0) (hvco : f * (dbf : Rat) < 0) :
    computeSetting halfUp f spacing epdf dbf = badArgument .vcoNegative :=
  (if_neg hepdf).trans (if_pos hvco)

/-- R234 to R237: for a positive EPDF and a `vco` that is not negative the counts are found and their pair is reduced. -/
theorem computeSetting_of_pos (hs : 0 < spacing) (hepdf : 0 < epdf) (hvco : 0 ≤ f * (dbf : Rat)) :
    ∃ ncount frac mod, computeSetting halfUp f spacing epdf dbf =
        .ok ⟨ncount, (reducePair frac mod).1, (reducePair frac mod).2, dbf⟩ ∧
      IsCount halfUp (f * (dbf : Rat)) spacing epdf ncount frac mod := by
  have hcount : 0 ≤ f * (dbf : Rat) / epdf := div_nonneg hvco hepdf.le
  obtain ⟨hle, hlt⟩ := floor_toNat_bounds _ hcount
  rw [le_div_iff₀ hepdf] at hle
  rw [div_lt_iff₀ hepdf] at hlt
  refine ⟨_, _, _, (if_neg hepdf.ne').trans (if_neg hvco.not_gt), hle, hlt, ?_,
    roundWith_isRounded halfUp _ (div_pos hepdf hs).le⟩
  rw [floor_eq_toNat _ hcount]
  exact roundWith_isRounded halfUp _ (div_nonneg (sub_nonneg.2 hle) hs.le)

/-- R234: a setting that was computed had a positive EPDF, and its numbers are the counts and their reduced pair. -/
theorem computeSetting_eq_ok {raw : RawSetting} (hs : 0 < spacing) (hepdf : 0 ≤ epdf)
    (h : computeSetting halfUp f spacing epdf dbf = .ok raw) :
    0 < epdf ∧ ∃ frac mod, reducePair frac mod = (raw.frac, raw.mod) ∧ raw.dbf = dbf ∧
      IsCount halfUp (f * (dbf : Rat)) spacing epdf raw.ncount frac mod := by
  obtain rfl | hpos := hepdf.eq_or_lt
  · nomatch computeSetting_of_epdf_zero.symm.trans h
  · obtain hneg | hvco := lt_or_ge (f * (dbf : Rat)) 0
    · nomatch (computeSetting_of_neg hpos.ne' hneg).symm.trans h
    · obtain ⟨ncount, frac, mod, hset, hcount⟩ := computeSetting_of_pos (halfUp := halfUp) hs hpos hvco
      cases hset.symm.trans h
      exact ⟨hpos, frac, mod, rfl, rfl, hcount⟩

end

/-- R201, both branches. -/
theorem reducePair_spec {f m f' m' : Nat} (h : reducePair f m = (f', m')) :
    if f = 0 ∨ m = 0 then f' = 0 ∧ m' = 1 else f' * Nat.gcd f m = f ∧ m' * Nat.gcd f m = m := by
  split
  case isTrue h0 => exact Prod.mk.inj (h.symm.trans (reducePair_of_eq_zero h0))
  case isFalse hne => exact reducePair_mul_gcd (not_or.1 hne).1 (not_or.1 hne).2 h

/-- R202: reducing keeps the order. -/
theorem reducePair_fst_le_snd {f m : Nat} (h : f ≤ m) : (reducePair f m).1 ≤ (reducePair f m).2 := by
  unfold reducePair
  split
  next => exact Nat.div_le_div_right h
  next => exact Nat.zero_le 1

theorem isRounded_mono {halfUp : Bool} {t u : Rat} {k m : Nat} (hk : IsRounded halfUp t k) (hm : IsRounded halfUp u m)
    (h : t ≤ u) : k ≤ m := by
  suffices (k : Rat) < (m : Rat) + 1 from Nat.lt_succ_iff.1 (by exact_mod_cast this)
  cases halfUp with
  | true =>
    obtain ⟨hk, -⟩ := hk
    obtain ⟨-, hm⟩ := hm
    linarith
  | false =>
    obtain ⟨hk, -⟩ := hk
    obtain ⟨-, hm⟩ := hm
    linarith

/-- R236: the rest is below one EPDF, so the numerator is not above the modulus. -/
theorem IsCount.frac_le_mod {halfUp : Bool} {vco spacing epdf : Rat} {ncount frac mod : Nat} (hs : 0 < spacing)
    (h : IsCount halfUp vco spacing epdf ncount frac mod) : frac ≤ mod := by
  have hlt := h.vco_lt
  exact isRounded_mono h.frac_rounded h.mod_rounded (div_le_div_of_nonneg_right (by linarith) hs.le)

/-- R240: `vco` and its setting both lie between `ncount` and `ncount + 1` EPDFs. -/
theorem IsCount.abs_sub_le {halfUp : Bool} {f spacing epdf : Rat} {dbf ncount frac mod frac' mod' : Nat} (hs : 0 < spacing)
    (hepdf : 0 < epdf) (hdbf : 0 < dbf) (h : IsCount halfUp (f * (dbf : Rat)) spacing epdf ncount frac mod)
    (hred : reducePair frac mod = (frac', mod')) :
    |((ncount : Rat) + (frac' : Rat) / (mod' : Rat)) * epdf / (dbf : Rat) - f| ≤ epdf / (dbf : Rat) := by
  have hle : (frac' : Rat) / (mod' : Rat) ≤ 1 := by
    have := reducePair_fst_le_snd (h.frac_le_mod hs)
    rw [hred] at this
    exact div_le_one_of_le₀ (by exact_mod_cast this) (Nat.cast_nonneg mod')
  have hnonneg : 0 ≤ (frac' : Rat) / (mod' : Rat) := by positivity
  have hdbf : (0 : Rat) < (dbf : Rat) := by exact_mod_cast hdbf
  have hlow := h.le_vco
  have hhigh := h.vco_lt
  have hpart : (frac' : Rat) / (mod' : Rat) * epdf ≤ epdf := mul_le_of_le_one_left hepdf.le hle
  have hpart' : 0 ≤ (frac' : Rat) / (mod' : Rat) * epdf := mul_nonneg hnonneg hepdf.le
  rw [div_sub' hdbf.ne', abs_div, abs_of_pos hdbf, div_le_div_iff_of_pos_right hdbf, abs_le, add_mul]
  constructor <;> linarith

/-! ### Step 8 -/

/-- The words of a computed setting, as SETFS is given them. -/
def RawSetting.words (raw : RawSetting) : FrequencySetting :=
  ⟨BitVec.ofNat 32 raw.ncount, BitVec.ofNat 32 raw.frac, BitVec.ofNat 32 raw.mod, BitVec.ofNat 32 raw.dbf⟩

theorem RawSetting.words_toNat (raw : RawSetting) (hn : raw.ncount < 65536) (hf : raw.frac < 4096) (hm : raw.mod < 4096) :
    raw.words.ncount.toNat = raw.ncount ∧ raw.words.frac.toNat = raw.frac ∧ raw.words.mod.toNat = raw.mod :=
  ⟨Nat.mod_eq_of_lt (by omega), Nat.mod_eq_of_lt (by omega), Nat.mod_eq_of_lt (by omega)⟩

section
variable {raw : RawSetting} {x : RegBlock}

theorem setRawSetting_of_ncount (hn : 65536 ≤ raw.ncount) : setRawSetting raw x = badArgument (.field .ncount) := if_pos hn

theorem setRawSetting_of_frac (hn : raw.ncount < 65536) (hf : 4096 ≤ raw.frac) :
    setRawSetting raw x = badArgument (.field .frac) :=
  (if_neg hn.not_ge).trans (if_pos hf)

theorem setRawSetting_of_mod (hn : raw.ncount < 65536) (hf : raw.frac < 4096) (hm : 4096 ≤ raw.mod) :
    setRawSetting raw x = badArgument (.field .mod) :=
  (if_neg hn.not_ge).trans ((if_neg hf.not_ge).trans (if_pos hm))

theorem setRawSetting_of_fits (hn : raw.ncount < 65536) (hf : raw.frac < 4096) (hm : raw.mod < 4096) :
    setRawSetting raw x = setSetting x raw.words :=
  (if_neg hn.not_ge).trans ((if_neg hf.not_ge).trans (if_neg hm.not_ge))

/-- A setting that was written fits its fields, as it is and as words. -/
theorem setRawSetting_eq_ok {x' : RegBlock} (h : setRawSetting raw x = .ok x') :
    raw.ncount < 65536 ∧ raw.frac < 4096 ∧ raw.mod < 4096 ∧ setSetting x raw.words = .ok x' := by
  unfold setRawSetting at h
  split_ifs at h with hn hf hm
  · nomatch h
  · nomatch h
  · nomatch h
  · exact ⟨not_le.1 hn, not_le.1 hf, not_le.1 hm, h⟩

/-- R237: the bits of a block outside ncount, frac, mod and divider_select are in these masks, and SETFS keeps them. -/
theorem setSetting_masked {x' : RegBlock} {fs : FrequencySetting} (h : setSetting x fs = .ok x') :
    x'.r2 = x.r2 ∧ x'.r3 = x.r3 ∧ x'.r5 = x.r5 ∧ x'.r0 &&& 0x80000007 = x.r0 &&& 0x80000007 ∧
      x'.r1 &&& 0xFFFF8007 = x.r1 &&& 0xFFFF8007 ∧ x'.r4 &&& 0xFF8FFFFF = x.r4 &&& 0xFF8FFFFF := by
  obtain ⟨code, hn, hf, hm, -, hc, rfl⟩ := setSetting_eq_ok h
  refine ⟨rfl, rfl, rfl, ?_, putField_and_of_disjoint _ (by decide) hm (by decide),
    putField_and_of_disjoint _ (by decide) (encodeDbf_lt hc) (by decide)⟩
  exact (putField_and_of_disjoint _ (by decide) hf (by decide)).trans
    (putField_and_of_disjoint _ (by decide) hn (by decide))

/-- SETFS accepts a setting that fits, with a `mod` that is not 0 and a divider that is one of the five. -/
theorem exists_setSetting_words {c : Nat} (hn : raw.ncount < 65536) (hf : raw.frac < 4096) (hm : raw.mod < 4096)
    (h0 : 0 < raw.mod) (hc : c < 5) (hdbf : raw.dbf = 2 ^ c) : ∃ x', setSetting x raw.words = .ok x' := by
  obtain ⟨hncount, hfrac, hmod⟩ := raw.words_toNat hn hf hm
  have hcode : encodeDbf raw.words.dbf = .ok (BitVec.ofNat 32 c) := by
    rw [RawSetting.words, hdbf, ← twoPow_eq_ofNat, encodeDbf_twoPow hc]
  exact ⟨_, setSetting_of_legal (hncount.trans_lt hn) (hfrac.trans_lt hf) (hmod.trans_lt hm)
    (fun hz => h0.ne' (hmod.symm.trans (congrArg BitVec.toNat hz))) hcode⟩

end

end Sys2Proof.Machine

/-! ## `setFrequency`: what it writes or refuses (R232 to R240) -/

namespace Sys2Proof.Machine

open Sys2Proof Sys2Proof.Safety

/-! ### After three valid reads -/

/-- An action that completed sent all of its byte strings. -/
theorem sent_of_ok {α : Type} {m : Action α} {F : List Bytes} {s t : State} {a : α} (hm : SendsInOrder (fun _ => F) m)
    (h : m s = (.ok a, t)) : t.sent = s.sent ++ F := by
  obtain ⟨_, frames, hsent, -, hall⟩ := hm s
  rw [h] at hsent hall
  cases hall a rfl
  exact hsent

/-- R232: the request bytes of the three reads. -/
theorem sent_of_readForSetFrequency {s s₃ : State} {id : ChannelId} {v : VcoRange} {hz : Word} {o : Options}
    (h : ReadForSetFrequency s id v hz o s₃) :
    s₃.sent = s.sent ++ [[channelAddress 0x83 id], [0x81], [channelAddress 0x80 id]] := by
  obtain ⟨s₁, s₂, x, h₁, h₂, h₃, -⟩ := h
  rw [sent_of_ok (readRegs_sendsInOrder id) (readRegs_of_exec h₃), sent_of_ok readRef_sendsInOrder (readRef_of_exec h₂),
    sent_of_ok (readVco_sendsInOrder id) (readVco_of_exec h₁)]
  simp

/-- R186: a change that fails ends the function before its write. -/
theorem readModifyWrite_of_change_error {s t : State} {id : ChannelId} {f : RegBlock → Except Error RegBlock} {x : RegBlock}
    {e : Error} (h : readRegs id s = (.ok x, t)) (hf : f x = .error e) : readModifyWrite id f s = (.error e, t) := by
  rw [readModifyWrite, andThen_ok h, hf, andThen_pure_error]

section
variable {s s₃ : State} {id : ChannelId} {f : Rat} {sp : Option Rat} {v : VcoRange} {hz : Word} {o : Options}

theorem callSetFrequency_of_setting_error {e : Error} (hs : 0 < sp.getD 10) (h : ReadForSetFrequency s id v hz o s₃)
    (hset : computeSetting s.roundHalfUp f (sp.getD 10) (effectiveFrequency hz o) (chooseDivider f v.low) = .error e) :
    callSetFrequency id f sp s = (.error e, s₃) := by
  rw [callSetFrequency_of_reads f hs h, hset, andThen_pure_error]

/-- R237: a computed setting goes to the read-modify-write of step 8. -/
theorem callSetFrequency_of_setting {raw : RawSetting} (hs : 0 < sp.getD 10) (h : ReadForSetFrequency s id v hz o s₃)
    (hset : computeSetting s.roundHalfUp f (sp.getD 10) (effectiveFrequency hz o) (chooseDivider f v.low) = .ok raw) :
    callSetFrequency id f sp s = readModifyWrite id (setRawSetting raw) s₃ := by
  rw [callSetFrequency_of_reads f hs h, hset, andThen_pure_ok]

end

/-- Settles O60: the refusals of the arithmetic, then those of SETFS in their order, then the write. -/
theorem setFrequencyWritesTheComputedSetting : Obligations.SetFrequencyWritesTheComputedSetting := by
  intro s s₃ id f sp v hz o hs hread
  obtain ⟨c, hc, hdbf⟩ := exists_chooseDivider_eq_twoPow f v.low
  have hdivider : (0 : Rat) < (chooseDivider f v.low : Rat) := by exact_mod_cast chooseDivider_pos f v.low
  refine ⟨sent_of_readForSetFrequency hread, fun h0 => ?_, fun hne hf => ?_, fun hne hf => ?_⟩
  · exact answer_asValue_error.2 (callSetFrequency_of_setting_error hs hread (h0 ▸ computeSetting_of_epdf_zero))
  · exact answer_asValue_error.2 (callSetFrequency_of_setting_error hs hread
      (computeSetting_of_neg hne (mul_neg_of_neg_of_pos hf hdivider)))
  obtain ⟨ncount, frac, mod, hset, hcount⟩ := computeSetting_of_pos (halfUp := s.roundHalfUp) hs
    ((effectiveFrequency_nonneg hz o).lt_of_ne' hne) (mul_nonneg hf hdivider.le)
  have hcall := callSetFrequency_of_setting hs hread hset
  refine ⟨ncount, frac, mod, _, _, _, rfl, hcount.le_vco, hcount.vco_lt, hcount.frac_rounded, hcount.mod_rounded,
    reducePair_spec rfl, fun x s₄ hx => ?_⟩
  have hregs := readRegs_of_exec hx
  refine ⟨sent_of_ok (readRegs_sendsInOrder id) hregs, fun hn => ?_, fun hn hf => ?_, fun hn hf hm => ?_, fun hn hf hm => ?_⟩
  · exact answer_asValue_error.2 (hcall.trans (readModifyWrite_of_change_error hregs (setRawSetting_of_ncount hn)))
  · exact answer_asValue_error.2 (hcall.trans (readModifyWrite_of_change_error hregs (setRawSetting_of_frac hn hf)))
  · exact answer_asValue_error.2 (hcall.trans (readModifyWrite_of_change_error hregs (setRawSetting_of_mod hn hf hm)))
  · obtain ⟨x', hx'⟩ := exists_setSetting_words (x := x) (raw := ⟨ncount, _, _, _⟩) hn hf hm
      (reducePair_snd_pos frac mod) hc hdbf
    refine ⟨x', give_map_ok.2 ⟨rfl, x', hx', rfl⟩, ?_⟩
    have hwrite := hcall.trans (readModifyWrite_of_read hregs ((setRawSetting_of_fits hn hf hm).trans hx'))
    rw [step_call, runCall, asValue_eq, hwrite, ← asValue_eq]
    rfl

/-! ### With an attached device (R187) -/

theorem idealLink_transmit {s : State} {n : Nat} (h : IdealLink s (n + 1)) (frame : Bytes) :
    IdealLink (s.transmit frame) n :=
  (idealLink_step h).2 _ (transmit_link ..)

/-- The first of several ideal exchanges. -/
theorem idealLink_of_add {s : State} {m n : Nat} (h : IdealLink s (n + m)) : IdealLink s m := by
  obtain ⟨rest, hlink⟩ := h
  rw [Nat.add_comm, List.replicate_add, List.append_assoc] at hlink
  exact ⟨_, hlink⟩

/-- The state after the three reads of `setFrequency` from an attached device. -/
def afterReads (s : State) (id : ChannelId) : State :=
  ((s.transmit [channelAddress 0x83 id]).transmit [0x81]).transmit [channelAddress 0x80 id]

/-- R232: what `setFrequency` computes of the items that an attached device holds: of the options `o` the setting `raw`, which
fits its fields, and the block `x'` with it. -/
structure SetsFrequency (s : State) (id : ChannelId) (f : Rat) (sp : Option Rat) (o : Options) (raw : RawSetting)
    (x' : RegBlock) : Prop where
  spacing_pos : 0 < sp.getD 10
  options : getOptionsOf (s.device.bank id).regs = .ok o
  setting : computeSetting s.roundHalfUp f (sp.getD 10) (effectiveFrequency s.device.reference o)
    (chooseDivider f (s.device.bank id).vco.low) = .ok raw
  block : setRawSetting raw (s.device.bank id).regs = .ok x'

section
variable {s : State} {id : ChannelId} {n : Nat} {o : Options} {f : Rat} {sp : Option Rat} {raw : RawSetting} {x' : RegBlock}

@[simp] theorem afterReads_device : (afterReads s id).device = s.device := by simp [afterReads]

theorem idealLink_afterReads (h : IdealLink s (n + 3)) : IdealLink (afterReads s id) n :=
  idealLink_transmit (idealLink_transmit (idealLink_transmit h _) _) _

theorem readForSetFrequency_ideal (h : IdealLink s (n + 3)) (ho : getOptionsOf (s.device.bank id).regs = .ok o) :
    ReadForSetFrequency s id (s.device.bank id).vco s.device.reference o (afterReads s id) := by
  have h₁ := idealLink_transmit h [channelAddress 0x83 id]
  have h₂ := idealLink_transmit h₁ [0x81]
  refine ⟨s.transmit [channelAddress 0x83 id], (s.transmit [channelAddress 0x83 id]).transmit [0x81],
    (s.device.bank id).regs, answer_asValue_ok.2 ⟨_, readVco_ideal (idealLink_step h).1, rfl⟩,
    answer_asValue_ok.2 ⟨_, ?_, rfl⟩, answer_asValue_ok.2 ⟨_, ?_, rfl⟩, give_map_ok.2 ⟨rfl, o, ho, rfl⟩⟩
  · rw [readRef_ideal (idealLink_step h₁).1, transmit_device]
  · rw [readRegs_ideal (idealLink_step h₂).1, transmit_device, transmit_device, afterReads]

/-- R232 with five replies, as the host sees it. -/
theorem answer_callSetFrequency_ideal (h : IdealLink s (n + 5)) (hw : SetsFrequency s id f sp o raw x') :
    ∃ t, step (s.pushRequest (.call (.setFrequency id f sp))) = .next t ∧ t.responses = s.responses ++ [.ok .none] ∧
      t.sent = s.sent ++ [[channelAddress 0x83 id], [0x81], [channelAddress 0x80 id], [channelAddress 0x80 id],
        frameOf (channelAddress 0x00 id) (blockBytes x')] ∧
      t.device = s.device.setBank id { s.device.bank id with regs := x' } ∧ IdealLink t n := by
  have hlink : IdealLink (afterReads s id) (n + 2) := idealLink_afterReads h
  have hread := readForSetFrequency_ideal (n := n + 2) h hw.options
  have hcall := (callSetFrequency_of_setting hw.spacing_pos hread hw.setting).trans
    (readModifyWrite_ideal (idealLink_of_add hlink) (by rw [afterReads_device, hw.block]))
  refine ⟨_, answer_asValue_ok.2 ⟨(), hcall, rfl⟩, ?_, ?_, ?_, idealLink_transmit (idealLink_transmit hlink _) _⟩
  · simp [afterReads]
  · simp [afterReads]
  · rw [respond_device, afterReads_device]

/-- A `setFrequency` that completes passed every test on its way. -/
theorem callSetFrequency_eq_ok {u : State} (h : IdealLink s (n + 4)) (hcall : callSetFrequency id f sp s = (.ok (), u)) :
    ∃ o raw x', SetsFrequency s id f sp o raw x' := by
  have hs : 0 < sp.getD 10 := by
    by_contra hs
    nomatch (congrFun (if_pos (not_lt.1 hs) : callSetFrequency id f sp = pureStep (badArgument .spacing)) s).symm.trans hcall
  cases ho : getOptionsOf (s.device.bank id).regs with
  | error e =>
    have hepdf := callEpdf_ideal id (idealLink_of_add (idealLink_transmit h [channelAddress 0x83 id] : IdealLink _ (n + 1 + 2)))
    rw [transmit_device, ho] at hepdf
    nomatch (callSetFrequency_of_epdf_error f hs (readVco_ideal (idealLink_step h).1) hepdf).symm.trans hcall
  | ok o =>
    have hread := readForSetFrequency_ideal (n := n + 1) h ho
    cases hset : computeSetting s.roundHalfUp f (sp.getD 10) (effectiveFrequency s.device.reference o)
      (chooseDivider f (s.device.bank id).vco.low) with
    | error e => nomatch (callSetFrequency_of_setting_error hs hread hset).symm.trans hcall
    | ok raw =>
      cases hx : setRawSetting raw (s.device.bank id).regs with
      | error e =>
        have hregs := readRegs_ideal (id := id) (idealLink_step (idealLink_afterReads (id := id) (n := n + 1) h)).1
        rw [afterReads_device] at hregs
        nomatch ((callSetFrequency_of_setting hs hread hset).trans
          (readModifyWrite_of_change_error hregs hx)).symm.trans hcall
      | ok x' => exact ⟨o, raw, x', hs, ho, hset, hx⟩

/-- R240: what `getFrequency` answers of registers that hold a computed setting. -/
theorem step_getFrequency_of_written {t : State} {x : RegBlock} (h : IdealLink t 3)
    (hx : setRawSetting raw x = .ok (t.device.bank id).regs) (ho : getOptionsOf x = .ok o) (hdbf : raw.dbf < 2 ^ 32) :
    ∃ u, step (t.pushRequest (.call (.getFrequency id))) = .next u ∧
      u.responses = t.responses ++ [.ok (.frequency (((raw.ncount : Rat) + (raw.frac : Rat) / (raw.mod : Rat)) *
        effectiveFrequency t.device.reference o / (raw.dbf : Rat)))] := by
  obtain ⟨hn, hf, hm, hset⟩ := setRawSetting_eq_ok hx
  obtain ⟨_, -, -, -, h0, -⟩ := setSetting_eq_ok hset
  obtain ⟨hncount, hfrac, hmod⟩ := raw.words_toNat hn hf hm
  have hdbf : raw.words.dbf.toNat = raw.dbf := Nat.mod_eq_of_lt hdbf
  have hopt : getOptionsOf (t.device.bank id).regs = .ok o := by
    rw [getOptionsOf, (setSetting_masked hset).1]
    exact ho
  obtain ⟨u, hu, hresponse, -⟩ := answer_callGetFrequency_ideal h (getSetting_of_setSetting hset)
  refine ⟨u, hu, ?_⟩
  rw [hresponse, hopt, ← hncount, ← hfrac, ← hmod, ← hdbf]
  exact congrArg (t.responses ++ [·]) ((responseOf_frequencyOf _ _).trans (if_neg h0))

end

/-- The one response an answered action gives says that it completed. -/
theorem ok_of_answer {α : Type} {f : α → Value} {m : Action α} {s t : State} {v : Value} {before : List Response}
    (h : answer (asValue f m s) = .next t) (ht : t.responses = before ++ [.ok v]) : ∃ a u, m s = (.ok a, u) := by
  rw [asValue_eq, answer_eq_next, Host.Outcome.next.injEq] at h
  subst h
  rw [respond_responses, List.append_singleton_inj] at ht
  rcases hm : m s with ⟨e | a, u⟩
  · rw [hm] at ht
    nomatch ht.2
  · exact ⟨a, u, rfl⟩

/-- What a `setFrequency` that completes computed, and what it did. -/
theorem setFrequency_completed {s t : State} {id : ChannelId} {f : Rat} {sp : Option Rat} {n : Nat} (h : IdealLink s (n + 5))
    (hstep : step (s.pushRequest (.call (.setFrequency id f sp))) = .next t) (ht : t.responses = s.responses ++ [.ok .none]) :
    ∃ o raw x', SetsFrequency s id f sp o raw x' ∧
      t.sent = s.sent ++ [[channelAddress 0x83 id], [0x81], [channelAddress 0x80 id], [channelAddress 0x80 id],
        frameOf (channelAddress 0x00 id) (blockBytes x')] ∧
      t.device = s.device.setBank id { s.device.bank id with regs := x' } ∧ IdealLink t n := by
  obtain ⟨_, u, hcall⟩ := ok_of_answer hstep ht
  obtain ⟨o, raw, x', hw⟩ := callSetFrequency_eq_ok (n := n + 1) h hcall
  obtain ⟨t', ht', -, hdone⟩ := answer_callSetFrequency_ideal h hw
  cases ht'.symm.trans hstep
  exact ⟨o, raw, x', hw, hdone⟩

/-- Settles O41: a `setFrequency` that completed wrote a computed setting into the block it read. -/
theorem setFrequencyRewritesOnlyItsFields : Obligations.SetFrequencyRewritesOnlyItsFields := by
  intro s t id f sp hlink hstep ht
  obtain ⟨_, _, x', hw, hsent, hdevice, -⟩ := setFrequency_completed (n := 0) hlink hstep ht
  obtain ⟨-, -, -, hset⟩ := setRawSetting_eq_ok hw.block
  exact ⟨x', hdevice, hsent, setSetting_masked hset⟩

/-- Settles O42: `getFrequency` answers the setting that was computed, and that lies within one EPDF of the VCO frequency. -/
theorem frequencyRoundTripIsWithinTheBound : Obligations.FrequencyRoundTripIsWithinTheBound := by
  intro s t id f sp o hlink hstep ht hopt
  obtain ⟨o', raw, x', hw, -, hdevice, hlink'⟩ := setFrequency_completed (n := 3) hlink hstep ht
  cases hw.options.symm.trans (getOptionsOf_of_exec hopt)
  obtain ⟨hepdf, frac, mod, hred, hdbf, hcount⟩ :=
    computeSetting_eq_ok hw.spacing_pos (effectiveFrequency_nonneg _ _) hw.setting
  have hbank : (t.device.bank id).regs = x' := by rw [hdevice, setBank_bank]
  obtain ⟨u, hu, hresponse⟩ := step_getFrequency_of_written hlink' (hbank ▸ hw.block) hw.options
    (hdbf ▸ chooseDivider_lt _ _)
  refine ⟨u, _, hu, hresponse, ?_⟩
  rw [hdevice, setBank_reference, epdfOf_eq, hdbf]
  exact hcount.abs_sub_le hw.spacing_pos hepdf (chooseDivider_pos _ _) hred

/-! ### The scenario of R240 -/

theorem chooseDivider_scenario : chooseDivider 1000 2300 = 4 := by
  norm_num [chooseDivider, dividerLoop, show (2300 : Half).toNat = 2300 from rfl]

theorem effectiveFrequency_scenario : effectiveFrequency 10000000 ⟨false, false, 0, false⟩ = 10 := by
  norm_num [effectiveFrequency, show (10000000 : Word).toNat = 10000000 from rfl]

theorem isRounded_zero (halfUp : Bool) : IsRounded halfUp 0 0 := by
  cases halfUp <;> norm_num [IsRounded]

/-- 4000 MHz are 400 EPDFs without a rest, under either rounding. -/
theorem computeSetting_scenario (halfUp : Bool) : computeSetting halfUp 1000 10 10 4 = .ok ⟨400, 0, 1, 4⟩ := by
  obtain ⟨ncount, frac, mod, hset, hcount⟩ :=
    computeSetting_of_pos (halfUp := halfUp) (f := 1000) (spacing := 10) (epdf := 10) (dbf := 4) (by norm_num) (by norm_num)
      (by norm_num)
  have hle := hcount.le_vco
  have hlt := hcount.vco_lt
  obtain rfl : ncount = 400 := by
    norm_num at hle hlt
    have : ncount * 10 ≤ 4000 := by exact_mod_cast hle
    have : 4000 < (ncount + 1) * 10 := by exact_mod_cast hlt
    omega
  have hfrac : frac ≤ 0 := isRounded_mono hcount.frac_rounded (isRounded_zero halfUp) (by norm_num)
  rw [hset, reducePair_of_eq_zero (.inl (Nat.le_zero.1 hfrac))]

/-- Settles O43: the setting of the scenario, written and read back. -/
theorem setFrequencyScenario : Obligations.SetFrequencyScenario := by
  intro s hlink href hlow hopt
  obtain ⟨x', hx'⟩ := exists_setSetting_words (raw := ⟨400, 0, 1, 4⟩) (x := s.device.bankA.regs) (c := 2)
    (by decide) (by decide) (by decide) (by decide) (by decide) rfl
  have hw : SetsFrequency s .a 1000 none ⟨false, false, 0, false⟩ ⟨400, 0, 1, 4⟩ x' := by
    refine ⟨by norm_num, getOptionsOf_of_exec hopt, ?_, (setRawSetting_of_fits (by decide) (by decide) (by decide)).trans hx'⟩
    change computeSetting _ _ 10 _ (chooseDivider _ s.device.bankA.vco.low) = _
    rw [href, hlow, effectiveFrequency_scenario, chooseDivider_scenario, computeSetting_scenario]
  obtain ⟨t, ht, hresponse, -, hdevice, hlink'⟩ := answer_callSetFrequency_ideal (n := 3) hlink hw
  have hregs : (t.device.bank .a).regs = x' := by rw [hdevice, setBank_bank]
  obtain ⟨u, hu, hresponse'⟩ := step_getFrequency_of_written hlink' (hregs ▸ hw.block) hw.options (by decide)
  refine ⟨t, u, ht, give_map_ok.2 ⟨rfl, _, hregs ▸ getSetting_of_setSetting hx', rfl⟩, hu, ?_⟩
  rw [hresponse', hresponse, hdevice, setBank_reference, href, effectiveFrequency_scenario]
  norm_num

end Sys2Proof.Machine

/-! ## An instruction's end: one response, and the host's side of the state left alone (R8, R258, R278) -/

namespace Sys2Proof.Machine

open Sys2Proof Sys2Proof.Safety

/-- Settles O50: the queue is the only field a step looks at before it presents a request. -/
theorem stepWithoutRequestChangesNothing : Obligations.StepWithoutRequestChangesNothing :=
  fun s h => by simp only [step, h, idle]

/-- What no action touches: the host's requests, its responses, and ROUND_HALF_UP. -/
structure SameHost (s t : State) : Prop where
  requests : t.requests = s.requests
  responses : t.responses = s.responses
  roundHalfUp : t.roundHalfUp = s.roundHalfUp

/-- An action that ends, with a result or an error, in a state with the same host. -/
def LeavesHost {α : Type} (m : Action α) : Prop := ∀ s, SameHost s (m s).2

section
variable {α β : Type} {m : Action α}

theorem sameHost_exchange (s : State) (frame : Bytes) (dev : Device) :
    SameHost s { s.transmit frame with device := dev } := ⟨by simp, by simp, by simp⟩

theorem pureStep_leavesHost (r : Except Error α) : LeavesHost (pureStep r) := fun _ => ⟨rfl, rfl, rfl⟩

theorem xwrite_leavesHost (a : Byte) (p : Bytes) : LeavesHost (xwrite a p) := by
  intro s
  obtain ⟨dev, hs⟩ := xwrite_state s a p
  rw [hs]
  exact sameHost_exchange ..

theorem xread_leavesHost (a : Byte) (n : Nat) : LeavesHost (xread a n) := by
  intro s
  obtain ⟨dev, hs⟩ := xread_state s a n
  rw [hs]
  exact sameHost_exchange ..

theorem LeavesHost.decode {f : α → Except Error β} (hm : LeavesHost m) :
    LeavesHost (andThen m fun a => pureStep (f a)) := by
  intro s
  rw [andThen_pureStep_state]
  exact hm s

theorem LeavesHost.asValue {f : α → Value} (hm : LeavesHost m) : LeavesHost (asValue f m) := hm.decode

theorem writeLabel_leavesHost (id : ChannelId) (l : Bytes) : LeavesHost (writeLabel id l) := by
  by_cases h : l.length = 16
  · rw [writeLabel_of_length id h]
    exact xwrite_leavesHost _ _
  · rw [writeLabel_of_length_ne id h]
    exact pureStep_leavesHost _

end

/-- Every instruction runs an action to its response: an exchange, a read exchange and its decoding, or no exchange at all. -/
theorem exec_eq_answer_leavesHost (i : Instr) : ∃ m : Action Value, LeavesHost m ∧ ∀ s, exec i s = answer (m s) := by
  cases i with
  | xread | getLabel => exact ⟨_, .asValue (xread_leavesHost _ _), fun _ => rfl⟩
  | getRegs | getVco | getRef | getStatus => exact ⟨_, .asValue (xread_leavesHost _ _).decode, fun _ => rfl⟩
  | setLabel id l => exact ⟨_, .asValue (writeLabel_leavesHost id l), fun _ => rfl⟩
  | xwrite | setRegs | setVco | setRef | setRefsel | flash =>
    exact ⟨_, .asValue (xwrite_leavesHost _ _), fun _ => rfl⟩
  | _ => exact ⟨_, pureStep_leavesHost _, fun _ => rfl⟩

/-- Settles O51: the action an instruction runs leaves the host alone, and answering adds the one response. -/
theorem everyInstructionResponds : Obligations.EveryInstructionResponds := by
  intro i s
  obtain ⟨m, hm, hexec⟩ := exec_eq_answer_leavesHost i
  obtain ⟨hreq, hresp, hround⟩ := hm s
  exact ⟨(m s).2.respond (responseOf (m s).1), responseOf (m s).1, hexec s, by simp [hresp], by simp [hreq], by simp [hround]⟩

end Sys2Proof.Machine

/-! ## The statuses an instruction's response may have (R250 to R255) -/

namespace Sys2Proof.Machine

open Sys2Proof Sys2Proof.Safety

/-- A result that, if it is an error, is one whose status (R250) is listed. -/
def RaisesOnly {α : Type} (codes : List Nat) (r : Except Error α) : Prop := ∀ e, r = .error e → errorCode e ∈ codes

/-- An outcome that is the next state after a response with one of the listed statuses. -/
def RespondsIn (codes : List Nat) (o : Host.Outcome State Fault Refusal) : Prop :=
  ∃ (u : State) (r : Response), o = .next (u.respond r) ∧ statusCode r ∈ codes

section
variable {α β : Type} {codes : List Nat} {r : Except Error α} {s : State}

@[simp] theorem raisesOnly_ok (a : α) : RaisesOnly codes (.ok a : Except Error α) := nofun

@[simp] theorem raisesOnly_error (e : Error) : RaisesOnly codes (.error e : Except Error α) ↔ errorCode e ∈ codes := by
  simp [RaisesOnly]

@[simp] theorem raisesOnly_badArgument (which : BadArgument) :
    RaisesOnly codes (badArgument which : Except Error α) ↔ 4 ∈ codes := raisesOnly_error _

@[simp] theorem raisesOnly_map (f : α → β) : RaisesOnly codes (r.map f) ↔ RaisesOnly codes r := by
  cases r <;> simp [Except.map]

theorem respondsIn_answer {p : Except Error Value × State} (h : RaisesOnly codes p.1) :
    RespondsIn (0 :: codes) (answer p) := by
  refine ⟨p.2, responseOf p.1, answer_eq_next p, ?_⟩
  cases hp : p.1 with
  | ok v => exact List.mem_cons_self
  | error e => exact List.mem_cons_of_mem _ (h e hp)

/-- An operation on its operands that refuses none of them. -/
theorem respondsIn_give_ok (v : Value) : RespondsIn [0] (give (.ok v) s) := respondsIn_answer (raisesOnly_ok v)

/-- An operation on its operands, by what its function raises. -/
theorem RaisesOnly.give {f : α → Value} (h : RaisesOnly codes r) : RespondsIn (0 :: codes) (give (r.map f) s) :=
  respondsIn_answer ((raisesOnly_map f).2 h)

/-- An action run to its response, by what it raises. -/
theorem RaisesOnly.answer {m : Action α} {f : α → Value} (h : RaisesOnly codes (m s).1) :
    RespondsIn (0 :: codes) (answer (asValue f m s)) :=
  respondsIn_answer (by rwa [asValue_eq, raisesOnly_map])

end

/-! ### Operand tests raise InvalidArgument (R254) -/

theorem makeAddress_raisesOnly (c : Command) (id : Option ChannelId) : RaisesOnly [4] (makeAddress c id) := by
  unfold makeAddress
  split
  · simp
  · split <;> simp

theorem unpackU32_raisesOnly (b : Bytes) : RaisesOnly [4] (unpackU32 b) := by
  by_cases h : b.length = 4
  · simp [unpackU32_of_length h]
  · simp [unpackU32_of_length_ne h]

theorem unpackU16_raisesOnly (b : Bytes) : RaisesOnly [4] (unpackU16 b) := by
  by_cases h : b.length = 2
  · simp [unpackU16_of_length h]
  · simp [unpackU16_of_length_ne h]

theorem unpackVco_raisesOnly (b : Bytes) : RaisesOnly [4] (unpackVco b) := by
  by_cases h : b.length = 4
  · simp [unpackVco_of_length h]
  · simp [unpackVco_of_length_ne h]

theorem unpackBlock_raisesOnly (b : Bytes) : RaisesOnly [4] (unpackBlock b) := by
  by_cases h : b.length = 24
  · obtain ⟨x, rfl⟩ := exists_packBlock_eq h
    simp
  · simp [unpackBlock_of_length_ne h]

theorem getField_raisesOnly (w : Word) (off width : Nat) : RaisesOnly [4] (getField w off width) := by
  unfold getField
  split <;> simp

theorem setField_raisesOnly (w : Word) (off width : Nat) (v : Word) : RaisesOnly [4] (setField w off width v) := by
  unfold setField
  split_ifs <;> simp

theorem packMembers_raisesOnly (members : List Member) (mapped rsvd : Word) :
    RaisesOnly [4] (packMembers members mapped rsvd) := by
  by_cases h : (∀ m ∈ members, m.value.toNat < 2 ^ m.width) ∧ rsvd &&& mapped = 0
  · obtain ⟨hv, hr⟩ := h
    simp [packMembers_eq_ok_iff.2 ⟨hv, hr, rfl⟩]
  · obtain ⟨which, hw⟩ := packMembers_of_not_fits h
    simp [hw]

theorem encodeDbf_raisesOnly (d : Word) : RaisesOnly [4] (encodeDbf d) := by
  by_cases h : ∃ c < 5, d = BitVec.twoPow 32 c
  · obtain ⟨c, hc, rfl⟩ := h
    simp [encodeDbf_twoPow hc]
  · push Not at h
    simp [encodeDbf_of_ne_twoPow h]

theorem encodeRfLevel_raisesOnly (l : SWord) : RaisesOnly [4] (encodeRfLevel l) := by
  by_cases h : ∃ c : Nat, c < 4 ∧ l.toInt = 3 * (c : Int) - 4
  · obtain ⟨c, hc, hl⟩ := h
    simp [encodeRfLevel_eq hc hl]
  · push Not at h
    simp [encodeRfLevel_of_ne h]

/-- R149: each code below 4 is a level. -/
theorem decodeRfLevel_raisesOnly_of_lt {c : Word} (codes : List Nat) (h : c.toNat < 4) :
    RaisesOnly codes (decodeRfLevel c) := by
  obtain ⟨l, hl⟩ := exists_level_of_code h
  have hc := decodeRfLevel_eq h hl
  rw [BitVec.ofNat_toNat, BitVec.setWidth_eq] at hc
  simp [hc]

theorem decodeRfLevel_raisesOnly (c : Word) : RaisesOnly [4] (decodeRfLevel c) := by
  by_cases h : c.toNat < 4
  · exact decodeRfLevel_raisesOnly_of_lt _ h
  · simp [decodeRfLevel_of_le (not_lt.1 h)]

theorem setSetting_raisesOnly (x : RegBlock) (fs : FrequencySetting) : RaisesOnly [4] (setSetting x fs) := by
  unfold setSetting
  split_ifs <;> simp [encodeDbf_raisesOnly]

theorem setOptionsOf_raisesOnly (x : RegBlock) (o : Options) : RaisesOnly [4] (setOptionsOf x o) := by
  unfold setOptionsOf
  split <;> simp

theorem setLevel_raisesOnly (x : RegBlock) (l : SWord) : RaisesOnly [4] (setLevel x l) :=
  (raisesOnly_map _).2 (encodeRfLevel_raisesOnly l)

/-! ### Decoding a code raises ReservedCode, and InvalidArgument only beyond the field (R255, R147, R151) -/

theorem decodeDbf_raisesOnly_of_lt {c : Word} {codes : List Nat} (h : c.toNat < 8) (h5 : 5 ∈ codes) :
    RaisesOnly codes (decodeDbf c) := by
  by_cases hc : c.toNat < 5
  · have hok := decodeDbf_ofNat hc
    rw [BitVec.ofNat_toNat, BitVec.setWidth_eq] at hok
    simp [hok]
  · simp [decodeDbf_of_reserved (not_lt.1 hc) (by omega), errorCode, h5]

theorem decodeDbf_raisesOnly (c : Word) : RaisesOnly [4, 5] (decodeDbf c) := by
  by_cases h : c.toNat < 8
  · exact decodeDbf_raisesOnly_of_lt h (by decide)
  · simp [decodeDbf_of_le (not_lt.1 h)]

theorem decodeLowSpur_raisesOnly_of_lt {c : Word} {codes : List Nat} (h : c.toNat < 4) (h5 : 5 ∈ codes) :
    RaisesOnly codes (decodeLowSpur c) := by
  unfold decodeLowSpur
  interval_cases c.toNat <;> simp [errorCode, h5]

theorem decodeLowSpur_raisesOnly (c : Word) : RaisesOnly [4, 5] (decodeLowSpur c) := by
  by_cases h : c.toNat < 4
  · exact decodeLowSpur_raisesOnly_of_lt h (by decide)
  · simp [decodeLowSpur_of_le (not_lt.1 h)]

/-- R210, R212, R214: a code read from its field is not beyond the field. -/
theorem getSetting_raisesOnly (x : RegBlock) : RaisesOnly [5] (getSetting x) :=
  (raisesOnly_map _).2 (decodeDbf_raisesOnly_of_lt (bitsOf_lt x.r4 20 3 (by decide)) (by decide))

theorem getOptionsOf_raisesOnly (x : RegBlock) : RaisesOnly [5] (getOptionsOf x) :=
  (raisesOnly_map _).2 (decodeLowSpur_raisesOnly_of_lt (bitsOf_lt x.r2 29 2 (by decide)) (by decide))

theorem getLevel_raisesOnly (x : RegBlock) : RaisesOnly [] (getLevel x) :=
  decodeRfLevel_raisesOnly_of_lt _ (bitsOf_lt x.r4 3 2 (by decide))

/-! ### Writes raise TransportError or ProtocolError (R251, R253) -/

theorem checkAck_raisesOnly (rx : Bytes) : RaisesOnly [1, 3, 4] (checkAck rx) := by
  by_cases h : rx.length ≤ 1
  · intro e he
    rcases errorCode_of_checkAck h he with h1 | h3
    · simp [h1]
    · simp [h3]
  · simp [checkAck_of_long (not_le.1 h)]

theorem xwrite_raisesOnly (a : Byte) (p : Bytes) (s : State) : RaisesOnly [1, 3] (xwrite a p s).1 := by
  intro e he
  simpa using errorCode_of_xwrite (t := (xwrite a p s).2) (Prod.ext he rfl)

theorem writeLabel_raisesOnly (id : ChannelId) (l : Bytes) (s : State) : RaisesOnly [1, 3, 4] (writeLabel id l s).1 := by
  by_cases h : l.length = 16
  · rw [writeLabel_of_length id h]
    exact fun e he => List.mem_append_left [4] (xwrite_raisesOnly _ _ s e he)
  · simp [writeLabel_of_length_ne id h]

/-! ### Reads raise TransportError or ChecksumError (R251, R252) -/

/-- R63: a response of the length asked for is a payload and a checksum byte. -/
theorem exists_payload_of_length {rx : Bytes} {n : Nat} (h : rx.length = n + 1) :
    ∃ (p : Bytes) (c : Byte), rx = p ++ [c] ∧ p.length = n := by
  have hne : rx ≠ [] := List.ne_nil_of_length_eq_add_one h
  exact ⟨rx.dropLast, rx.getLast hne, (List.dropLast_append_getLast hne).symm, by simp [h]⟩

/-- R96: a response that is not too long. -/
theorem checkResponse_raisesOnly_of_le {rx : Bytes} {n : Nat} (h : rx.length ≤ n + 1) :
    RaisesOnly [1, 2] (checkResponse rx n) := by
  rcases h.lt_or_eq with hshort | hwhole
  · simp [checkResponse_of_short hshort, errorCode]
  · obtain ⟨p, c, rfl, rfl⟩ := exists_payload_of_length hwhole
    rw [checkResponse_append]
    split <;> simp [errorCode]

theorem checkResponse_raisesOnly (rx : Bytes) (n : Nat) : RaisesOnly [1, 2, 4] (checkResponse rx n) := by
  by_cases h : rx.length ≤ n + 1
  · exact fun e he => List.mem_append_left [4] (checkResponse_raisesOnly_of_le h e he)
  · simp [checkResponse_of_long (not_le.1 h)]

theorem length_of_checkResponse {rx p : Bytes} {n : Nat} (h : checkResponse rx n = .ok p) : p.length = n := by
  rcases lt_trichotomy rx.length (n + 1) with hshort | hwhole | hlong
  · nomatch (checkResponse_of_short hshort).symm.trans h
  · obtain ⟨q, c, rfl, rfl⟩ := exists_payload_of_length hwhole
    rw [checkResponse_append] at h
    split at h
    · cases h
      rfl
    · nomatch h
  · nomatch (checkResponse_of_long hlong).symm.trans h

theorem xread_raisesOnly (a : Byte) (n : Nat) (s : State) : RaisesOnly [1, 2] (xread a n s).1 := by
  by_cases h : accepted (nextDraw s) 1 = 1
  · rw [xread_answered s a n _ ⟨h, rfl⟩]
    exact checkResponse_raisesOnly_of_le (received_length_le _ _ _)
  · simp [xread_short s a n h, errorCode]

/-- R172: the payload a read exchange answers has the length asked for. -/
theorem length_of_xread {a : Byte} {n : Nat} {s : State} {p : Bytes} (h : (xread a n s).1 = .ok p) : p.length = n := by
  by_cases hn : accepted (nextDraw s) 1 = 1
  · rw [xread_answered s a n _ ⟨hn, rfl⟩] at h
    exact length_of_checkResponse h
  · rw [xread_short s a n hn] at h
    nomatch h

/-- The decoding of a read command's payload raises nothing of its own, since it accepts every payload of the length read. -/
theorem read_raisesOnly {α : Type} {decode : Bytes → Except Error α} {n : Nat} (a : Byte) (s : State)
    (hd : ∀ p : Bytes, p.length = n → ∃ v, decode p = .ok v) :
    RaisesOnly [1, 2] (andThen (xread a n) (fun p => pureStep (decode p)) s).1 := by
  rcases andThen_cases (xread a n) (fun p => pureStep (decode p)) s with ⟨p, hp, h⟩ | ⟨e, he, h⟩
  · obtain ⟨v, hv⟩ := hd p (length_of_xread hp)
    simp [h, hv]
  · rw [h, raisesOnly_error]
    exact xread_raisesOnly a n s e he

theorem unpackBlock_total (p : Bytes) (h : p.length = 24) : ∃ x, unpackBlock p = .ok x := by
  obtain ⟨x, rfl⟩ := exists_packBlock_eq h
  exact ⟨x, unpackBlock_packBlock x⟩

/-! ### All sixty instructions -/

/-- R250 to R255: the "raised by" column, in the groups of `statusesOf`. -/
theorem exec_respondsIn (i : Instr) (s : State) : RespondsIn (statusesOf i) (exec i s) := by
  cases i with
  | cksum | ckverify | framew | framer | packu32 | packu16 | packbool | labelfit | packvco | stphase | strefsel | unpackr0
  | unpackr1 | unpackr2 | unpackr3 | unpackr4 | unpackr5 | packblk | lspenc | gcd | reduce => exact respondsIn_give_ok _
  | getrfl x => exact (getLevel_raisesOnly x).give
  | mkaddr c id => exact (makeAddress_raisesOnly c id).give
  | unpacku32 b => exact (unpackU32_raisesOnly b).give
  | unpacku16 b => exact (unpackU16_raisesOnly b).give
  | unpackvco b => exact (unpackVco_raisesOnly b).give
  | unpackblk b => exact (unpackBlock_raisesOnly b).give
  | fget w off width => exact (getField_raisesOnly w off width).give
  | fset w off width v => exact (setField_raisesOnly w off width v).give
  | packr0 | packr1 | packr2 | packr3 | packr4 | packr5 => exact (packMembers_raisesOnly _ _ _).give
  | dbfenc d => exact (encodeDbf_raisesOnly d).give
  | rflenc l => exact (encodeRfLevel_raisesOnly l).give
  | rfldec c => exact (decodeRfLevel_raisesOnly c).give
  | setfs x fs => exact (setSetting_raisesOnly x fs).give
  | setopt x o => exact (setOptionsOf_raisesOnly x o).give
  | setrfl x l => exact (setLevel_raisesOnly x l).give
  | dbfdec c => exact (decodeDbf_raisesOnly c).give
  | lspdec c => exact (decodeLowSpur_raisesOnly c).give
  | getfs x => exact (getSetting_raisesOnly x).give
  | getopt x => exact (getOptionsOf_raisesOnly x).give
  | ackchk rx => exact (checkAck_raisesOnly rx).give
  | respchk rx n => exact (checkResponse_raisesOnly rx n).give
  | xwrite | setRegs | setVco | setRef | setRefsel | flash => exact (xwrite_raisesOnly _ _ s).answer
  | setLabel id l => exact (writeLabel_raisesOnly id l s).answer
  | xread | getLabel => exact (xread_raisesOnly _ _ s).answer
  | getRegs => exact (read_raisesOnly _ s unpackBlock_total).answer
  | getVco => exact (read_raisesOnly _ s fun _ h => ⟨_, unpackVco_of_length h⟩).answer
  | getRef => exact (read_raisesOnly _ s fun _ h => ⟨_, unpackU32_of_length h⟩).answer
  | getStatus => exact (read_raisesOnly _ s fun _ _ => ⟨_, rfl⟩).answer

/-- Settles O52: the one response that an instruction adds is the one whose status is in the table. -/
theorem statusesAreThoseOfTheErrorTable : Obligations.StatusesAreThoseOfTheErrorTable := by
  intro i s t ht
  obtain ⟨u, r, hr, hstatus⟩ := exec_respondsIn i s
  obtain ⟨t', r', ht', hresp, -, -⟩ := everyInstructionResponds i s
  cases ht.symm.trans hr
  cases ht.symm.trans ht'
  rw [respond_responses, List.append_singleton_inj] at hresp
  exact ⟨r, by rw [respond_responses, hresp.1], hstatus⟩

end Sys2Proof.Machine

/-! ## The state after reset (R270) -/

namespace Sys2Proof.Machine

open Sys2Proof Sys2Proof.Safety

/-- Settles O58: after reset nothing has been sent. -/
theorem resetHasFramesSent : Obligations.ResetHasFramesSent := fun _ hf => absurd hf List.not_mem_nil

/-- Settles O59: the lists of the host are empty, and PACKU32 answers in every state. -/
theorem resetIsReady : Obligations.ResetIsReady :=
  ⟨rfl, rfl, rfl, fun v => by rw [exec_packu32, packU32_eq]⟩

end Sys2Proof.Machine
